-- ==== Sys2Proof/Word.lean ====
section
/-! DEFINITION. The widths the spec settles (R10), and nothing else: the arithmetic over them stands in
Sys2Proof/Machine/Operands.lean and Sys2Proof/Machine/Flags.lean. -/

namespace Sys2Proof

/-- An accumulator or register-file value: 8 bits (R10). -/
abbrev Byte := BitVec 8

/-- A 16-bit instruction word (R10, R70), and the 16-bit two's-complement intermediate of R105. -/
abbrev Word := BitVec 16

/-- A register-file address: 7 bits, 128 addresses (R10, R52). -/
abbrev RegAddr := BitVec 7

end Sys2Proof
end

