-- ==== Sys2Proof/Syntax.lean ====
section
/-! DEFINITION. The instructions: one constructor per row of spec/opcode_table.json (39 rows), with the operands R76 forms
from the word. Bits a row ignores (R83) are no operands (DEDUCED, log entry 14). The rows that only raise a fault are instructions too, so that the
decoder is total (R84). -/

namespace Sys2Proof

/-- The destination select `d` of format A (R72): `d = 0` is the accumulator, `d = 1` is register `f`. -/
inductive Dest where
  | w
  | f
  deriving DecidableEq, Repr

/-- One constructor per row of the opcode table, in the table's order. `f` is `instr[6:0]`, `d` is `instr[7]`, `b` is
`instr[9:7]`, `k` is `instr[7:0]` in class 3 and `instr[10:0]` in class 2. -/
inductive Instr where
  /-- NOP (R125). -/
  | nop
  /-- RETURN (R122). -/
  | ret
  /-- RETFIE (R123). -/
  | retfie
  /-- SLEEP (R124). -/
  | sleep
  /-- INVALID_C0 (R126): the unassigned sub-opcode-0 words of class 0. -/
  | invalidC0 (f : RegAddr)
  /-- MOVWF (R121). -/
  | movwf (f : RegAddr)
  /-- CLRW (R128). -/
  | clrw
  /-- CLRF (R127). -/
  | clrf (f : RegAddr)
  /-- SUBWF (R129). -/
  | subwf (f : RegAddr) (d : Dest)
  /-- DECF (R130). -/
  | decf (f : RegAddr) (d : Dest)
  /-- IORWF (R131). -/
  | iorwf (f : RegAddr) (d : Dest)
  /-- ANDWF (R132). -/
  | andwf (f : RegAddr) (d : Dest)
  /-- XORWF (R133). -/
  | xorwf (f : RegAddr) (d : Dest)
  /-- ADDWF (R134). -/
  | addwf (f : RegAddr) (d : Dest)
  /-- MOVF (R135). -/
  | movf (f : RegAddr) (d : Dest)
  /-- COMF (R136). -/
  | comf (f : RegAddr) (d : Dest)
  /-- INCF (R137). -/
  | incf (f : RegAddr) (d : Dest)
  /-- DECFSZ (R138). -/
  | decfsz (f : RegAddr) (d : Dest)
  /-- RLF (R139). -/
  | rlf (f : RegAddr) (d : Dest)
  /-- RRF (R140). -/
  | rrf (f : RegAddr) (d : Dest)
  /-- SWAPF (R141). -/
  | swapf (f : RegAddr) (d : Dest)
  /-- INCFSZ (R142). -/
  | incfsz (f : RegAddr) (d : Dest)
  /-- BCF (R171). -/
  | bcf (f : RegAddr) (b : BitVec 3)
  /-- BSF (R172). -/
  | bsf (f : RegAddr) (b : BitVec 3)
  /-- BTFSC (R173). -/
  | btfsc (f : RegAddr) (b : BitVec 3)
  /-- BTFSS (R174). -/
  | btfss (f : RegAddr) (b : BitVec 3)
  /-- CALL (R181). -/
  | call (k : BitVec 11)
  /-- GOTO (R182). -/
  | goto (k : BitVec 11)
  /-- MOVLW (R191). -/
  | movlw (k : Byte)
  /-- RETLW (R192). -/
  | retlw (k : Byte)
  /-- IORLW (R195). -/
  | iorlw (k : Byte)
  /-- ANDLW (R196). -/
  | andlw (k : Byte)
  /-- XORLW (R197). -/
  | xorlw (k : Byte)
  /-- INVALID_L (R198): class 3, sub-opcode 0xB. -/
  | invalidL
  /-- SUBLW (R193). -/
  | sublw (k : Byte)
  /-- ADDLW (R194). -/
  | addlw (k : Byte)
  /-- INVALID_CLASS (R101), the row with `instr[15:14] = 01`. -/
  | invalidClass1
  /-- INVALID_CLASS (R101), the row with `instr[15:14] = 10`. -/
  | invalidClass2
  /-- INVALID_CLASS (R101), the row with `instr[15:14] = 11`. -/
  | invalidClass3
  deriving DecidableEq, Repr

end Sys2Proof
end

