-- ==== Sys2Proof/WellFormed.lean ====
section
/-! DEFINITION. Which terms of Instr stand for a word. The operand types hold the field widths of R72 to R76 (7-bit `f`, 3-bit
`b`, 8- and 11-bit `k`), so the one check left is that of the fallback row INVALID_C0, which is taken only where NOP, RETURN,
RETFIE and SLEEP are not (R88). -/

namespace Sys2Proof

/-- The seven values of `f` at which class 0, sub-opcode 0, `d = 0` is an instruction (R77, R82). -/
def Instr.isAssignedC0 (f : RegAddr) : Bool :=
  f == 0x00#7 || f == 0x20#7 || f == 0x40#7 || f == 0x60#7 || f == 0x08#7 || f == 0x09#7 || f == 0x63#7

/-- The check, one arm per constructor. -/
def Instr.wellFormed : Instr → Bool
  | .nop => true
  | .ret => true
  | .retfie => true
  | .sleep => true
  | .invalidC0 f => !Instr.isAssignedC0 f
  | .movwf _ => true
  | .clrw => true
  | .clrf _ => true
  | .subwf _ _ => true
  | .decf _ _ => true
  | .iorwf _ _ => true
  | .andwf _ _ => true
  | .xorwf _ _ => true
  | .addwf _ _ => true
  | .movf _ _ => true
  | .comf _ _ => true
  | .incf _ _ => true
  | .decfsz _ _ => true
  | .rlf _ _ => true
  | .rrf _ _ => true
  | .swapf _ _ => true
  | .incfsz _ _ => true
  | .bcf _ _ => true
  | .bsf _ _ => true
  | .btfsc _ _ => true
  | .btfss _ _ => true
  | .call _ => true
  | .goto _ => true
  | .movlw _ => true
  | .retlw _ => true
  | .iorlw _ => true
  | .andlw _ => true
  | .xorlw _ => true
  | .invalidL => true
  | .sublw _ => true
  | .addlw _ => true
  | .invalidClass1 => true
  | .invalidClass2 => true
  | .invalidClass3 => true

end Sys2Proof
end

