-- ==== Sys2Proof/Decode.lean ====
section
/-! DEFINITION. The decoder of R71 to R84, total on every 16-bit word (a word the spec calls illegal decodes to the constructor
of its INVALID row, which names the fault it raises); after it the encoder, and the match and mask rows of R88. -/

namespace Sys2Proof

/-! ### Fields of the word (R71 to R76): none is extended, scaled or shifted. -/

/-- `f = instr[6:0]`. -/
def fieldF (w : Word) : RegAddr := w.extractLsb' 0 7

/-- `d = instr[7]`. -/
def fieldD (w : Word) : Dest := if w.getLsbD 7 then .f else .w

/-- The class-1 bit index `b = instr[9:7]`. -/
def fieldB (w : Word) : BitVec 3 := w.extractLsb' 7 3

/-- The class-3 literal `k = instr[7:0]`. -/
def fieldK8 (w : Word) : Byte := w.extractLsb' 0 8

/-- The class-2 target `k = instr[10:0]`. -/
def fieldK11 (w : Word) : BitVec 11 := w.extractLsb' 0 11

/-- The sub-opcode `instr[11:8]` of classes 0 and 3. -/
def fieldOp (w : Word) : BitVec 4 := w.extractLsb' 8 4

/-- The class-1 sub-opcode `instr[11:10]`. -/
def fieldBitOp (w : Word) : BitVec 2 := w.extractLsb' 10 2

/-- The dispatcher's selector `instr[15:12]` (R101). -/
def fieldSel (w : Word) : BitVec 4 := w.extractLsb' 12 4

/-! ### The decoder. -/

/-- Class 0, sub-opcode 0, tested in the order of R77. -/
def decodeC0Special (f : RegAddr) : Dest → Instr
  | .f => .movwf f
  | .w =>
    if f &&& 0x7E#7 = 0x08#7 then (if f = 0x08#7 then .ret else .retfie)
    else if f = 0x63#7 then .sleep
    else if f &&& 0x1F#7 ≠ 0#7 then .invalidC0 f
    else .nop

/-- Class 0 by sub-opcode (R77, R78). -/
def decodeClass0 (op : BitVec 4) (f : RegAddr) (d : Dest) : Instr :=
  if op = 0x0#4 then decodeC0Special f d
  else if op = 0x1#4 then (match d with | .f => .clrf f | .w => .clrw)
  else if op = 0x2#4 then .subwf f d
  else if op = 0x3#4 then .decf f d
  else if op = 0x4#4 then .iorwf f d
  else if op = 0x5#4 then .andwf f d
  else if op = 0x6#4 then .xorwf f d
  else if op = 0x7#4 then .addwf f d
  else if op = 0x8#4 then .movf f d
  else if op = 0x9#4 then .comf f d
  else if op = 0xA#4 then .incf f d
  else if op = 0xB#4 then .decfsz f d
  else if op = 0xC#4 then .rlf f d
  else if op = 0xD#4 then .rrf f d
  else if op = 0xE#4 then .swapf f d
  else .incfsz f d

/-- Class 1 by `instr[11:10]` (R79). -/
def decodeClass1 (op : BitVec 2) (f : RegAddr) (b : BitVec 3) : Instr :=
  if op = 0#2 then .bcf f b
  else if op = 1#2 then .bsf f b
  else if op = 2#2 then .btfsc f b
  else .btfss f b

/-- Class 2 by the form bit `instr[11]` (R80). -/
def decodeClass2 (g : Bool) (k : BitVec 11) : Instr :=
  if g then .goto k else .call k

/-- Class 3 by sub-opcode, tested in the order of R81. -/
def decodeClass3 (op : BitVec 4) (k : Byte) : Instr :=
  if op &&& 0xC#4 = 0x0#4 then .movlw k
  else if op &&& 0xC#4 = 0x4#4 then .retlw k
  else if op &&& 0xE#4 = 0xC#4 then .sublw k
  else if op &&& 0xE#4 = 0xE#4 then .addlw k
  else if op = 0x8#4 then .iorlw k
  else if op = 0x9#4 then .andlw k
  else if op = 0xA#4 then .xorlw k
  else .invalidL

/-- A selector above 3 (R101), told apart by `instr[15:14]` into the table's three INVALID_CLASS rows. -/
def decodeInvalidClass (top : BitVec 2) : Instr :=
  if top = 1#2 then .invalidClass1
  else if top = 2#2 then .invalidClass2
  else .invalidClass3

/-- The decoder: the class dispatcher's selector is `instr[15:12]`, and a value above 3 is no class (R101;
DEDUCED, log entry 9). -/
def decode (w : Word) : Instr :=
  let sel := fieldSel w
  if 3 < sel.toNat then decodeInvalidClass (w.extractLsb' 14 2)
  else if sel = 0#4 then decodeClass0 (fieldOp w) (fieldF w) (fieldD w)
  else if sel = 1#4 then decodeClass1 (fieldBitOp w) (fieldF w) (fieldB w)
  else if sel = 2#4 then decodeClass2 (w.getLsbD 11) (fieldK11 w)
  else decodeClass3 (fieldOp w) (fieldK8 w)

/-- The host's entry to the decoder: every instruction is one 16-bit word that reaches the core whole (R56, R70; DEDUCED, log
entry 15), so the word is the number itself; a longer row does not exist. -/
def decodeTableWord (nbits w : Nat) : Option Instr :=
  if nbits ≤ 16 then some (decode (BitVec.ofNat 16 (w % 2 ^ nbits))) else none

/-! ### The encoder: the bit patterns of R88, ignored bits zero (the canonical encoding of R85). -/

/-- The bit `d` of format A. -/
def Dest.bit : Dest → BitVec 1
  | .w => 0#1
  | .f => 1#1

/-- Format A (R72): class 0, sub-opcode, `d`, `f`. -/
def formatA (op : BitVec 4) (d : Dest) (f : RegAddr) : Word := 0b0000#4 ++ op ++ d.bit ++ f

/-- Format B (R73): class 1, sub-opcode, `b`, `f`. -/
def formatB (op : BitVec 2) (b : BitVec 3) (f : RegAddr) : Word := 0b0001#4 ++ op ++ b ++ f

/-- Format C (R74): class 2, form bit, target. -/
def formatC (g : BitVec 1) (k : BitVec 11) : Word := 0b0010#4 ++ g ++ k

/-- Format L (R75): class 3, sub-opcode, literal. -/
def formatL (op : BitVec 4) (k : Byte) : Word := 0b0011#4 ++ op ++ k

/-- The canonical word of each instruction. -/
def encode : Instr → Word
  | .nop => formatA 0x0 .w 0x00
  | .ret => formatA 0x0 .w 0x08
  | .retfie => formatA 0x0 .w 0x09
  | .sleep => formatA 0x0 .w 0x63
  | .invalidC0 f => formatA 0x0 .w f
  | .movwf f => formatA 0x0 .f f
  | .clrw => formatA 0x1 .w 0x00
  | .clrf f => formatA 0x1 .f f
  | .subwf f d => formatA 0x2 d f
  | .decf f d => formatA 0x3 d f
  | .iorwf f d => formatA 0x4 d f
  | .andwf f d => formatA 0x5 d f
  | .xorwf f d => formatA 0x6 d f
  | .addwf f d => formatA 0x7 d f
  | .movf f d => formatA 0x8 d f
  | .comf f d => formatA 0x9 d f
  | .incf f d => formatA 0xA d f
  | .decfsz f d => formatA 0xB d f
  | .rlf f d => formatA 0xC d f
  | .rrf f d => formatA 0xD d f
  | .swapf f d => formatA 0xE d f
  | .incfsz f d => formatA 0xF d f
  | .bcf f b => formatB 0 b f
  | .bsf f b => formatB 1 b f
  | .btfsc f b => formatB 2 b f
  | .btfss f b => formatB 3 b f
  | .call k => formatC 0 k
  | .goto k => formatC 1 k
  | .movlw k => formatL 0x0 k
  | .retlw k => formatL 0x4 k
  | .iorlw k => formatL 0x8 k
  | .andlw k => formatL 0x9 k
  | .xorlw k => formatL 0xA k
  | .invalidL => formatL 0xB 0x00
  | .sublw k => formatL 0xC k
  | .addlw k => formatL 0xE k
  | .invalidClass1 => 0x4000#16
  | .invalidClass2 => 0x8000#16
  | .invalidClass3 => 0xC000#16

/-- The bits of an instruction's words that the decode ignores (R83, and the `x` bits of R88's INVALID rows). -/
def Instr.ignoredBits : Instr → Word
  | .nop => 0x0060#16
  | .ret => 0x0000#16
  | .retfie => 0x0000#16
  | .sleep => 0x0000#16
  | .invalidC0 _ => 0x0000#16
  | .movwf _ => 0x0000#16
  | .clrw => 0x007F#16
  | .clrf _ => 0x0000#16
  | .subwf _ _ => 0x0000#16
  | .decf _ _ => 0x0000#16
  | .iorwf _ _ => 0x0000#16
  | .andwf _ _ => 0x0000#16
  | .xorwf _ _ => 0x0000#16
  | .addwf _ _ => 0x0000#16
  | .movf _ _ => 0x0000#16
  | .comf _ _ => 0x0000#16
  | .incf _ _ => 0x0000#16
  | .decfsz _ _ => 0x0000#16
  | .rlf _ _ => 0x0000#16
  | .rrf _ _ => 0x0000#16
  | .swapf _ _ => 0x0000#16
  | .incfsz _ _ => 0x0000#16
  | .bcf _ _ => 0x0000#16
  | .bsf _ _ => 0x0000#16
  | .btfsc _ _ => 0x0000#16
  | .btfss _ _ => 0x0000#16
  | .call _ => 0x0000#16
  | .goto _ => 0x0000#16
  | .movlw _ => 0x0300#16
  | .retlw _ => 0x0300#16
  | .iorlw _ => 0x0000#16
  | .andlw _ => 0x0000#16
  | .xorlw _ => 0x0000#16
  | .invalidL => 0x00FF#16
  | .sublw _ => 0x0100#16
  | .addlw _ => 0x0100#16
  | .invalidClass1 => 0x3FFF#16
  | .invalidClass2 => 0x3FFF#16
  | .invalidClass3 => 0x3FFF#16

/-! ### The opcode map of R88 as match and mask rows, written from the table and not from the decoder above. -/

/-- One row: a word matches it when `(instr and mask) = match`. -/
structure OpcodeRow where
  pattern : Word
  mask : Word
  deriving DecidableEq, Repr

/-- Whether a word matches a row. -/
def OpcodeRow.fits (r : OpcodeRow) (w : Word) : Bool := w &&& r.mask == r.pattern

/-- The row an instruction belongs to (R88). -/
def Instr.row : Instr → OpcodeRow
  | .nop => ⟨0x0000, 0xFF9F⟩
  | .ret => ⟨0x0008, 0xFFFF⟩
  | .retfie => ⟨0x0009, 0xFFFF⟩
  | .sleep => ⟨0x0063, 0xFFFF⟩
  | .invalidC0 _ => ⟨0x0000, 0xFF80⟩
  | .movwf _ => ⟨0x0080, 0xFF80⟩
  | .clrw => ⟨0x0100, 0xFF80⟩
  | .clrf _ => ⟨0x0180, 0xFF80⟩
  | .subwf _ _ => ⟨0x0200, 0xFF00⟩
  | .decf _ _ => ⟨0x0300, 0xFF00⟩
  | .iorwf _ _ => ⟨0x0400, 0xFF00⟩
  | .andwf _ _ => ⟨0x0500, 0xFF00⟩
  | .xorwf _ _ => ⟨0x0600, 0xFF00⟩
  | .addwf _ _ => ⟨0x0700, 0xFF00⟩
  | .movf _ _ => ⟨0x0800, 0xFF00⟩
  | .comf _ _ => ⟨0x0900, 0xFF00⟩
  | .incf _ _ => ⟨0x0A00, 0xFF00⟩
  | .decfsz _ _ => ⟨0x0B00, 0xFF00⟩
  | .rlf _ _ => ⟨0x0C00, 0xFF00⟩
  | .rrf _ _ => ⟨0x0D00, 0xFF00⟩
  | .swapf _ _ => ⟨0x0E00, 0xFF00⟩
  | .incfsz _ _ => ⟨0x0F00, 0xFF00⟩
  | .bcf _ _ => ⟨0x1000, 0xFC00⟩
  | .bsf _ _ => ⟨0x1400, 0xFC00⟩
  | .btfsc _ _ => ⟨0x1800, 0xFC00⟩
  | .btfss _ _ => ⟨0x1C00, 0xFC00⟩
  | .call _ => ⟨0x2000, 0xF800⟩
  | .goto _ => ⟨0x2800, 0xF800⟩
  | .movlw _ => ⟨0x3000, 0xFC00⟩
  | .retlw _ => ⟨0x3400, 0xFC00⟩
  | .iorlw _ => ⟨0x3800, 0xFF00⟩
  | .andlw _ => ⟨0x3900, 0xFF00⟩
  | .xorlw _ => ⟨0x3A00, 0xFF00⟩
  | .invalidL => ⟨0x3B00, 0xFF00⟩
  | .sublw _ => ⟨0x3C00, 0xFE00⟩
  | .addlw _ => ⟨0x3E00, 0xFE00⟩
  | .invalidClass1 => ⟨0x4000, 0xC000⟩
  | .invalidClass2 => ⟨0x8000, 0xC000⟩
  | .invalidClass3 => ⟨0xC000, 0xC000⟩

/-- The fallback row INVALID_C0, taken only where no other row matches (R88). -/
def fallbackRow : OpcodeRow := ⟨0x0000, 0xFF80⟩

/-- The 38 rows other than the fallback row, in the order of R88. -/
def opcodeRows : List OpcodeRow :=
  [⟨0x0000, 0xFF9F⟩, ⟨0x0008, 0xFFFF⟩, ⟨0x0009, 0xFFFF⟩, ⟨0x0063, 0xFFFF⟩] ++
  [⟨0x0080, 0xFF80⟩, ⟨0x0100, 0xFF80⟩, ⟨0x0180, 0xFF80⟩] ++
  [⟨0x0200, 0xFF00⟩, ⟨0x0300, 0xFF00⟩, ⟨0x0400, 0xFF00⟩, ⟨0x0500, 0xFF00⟩, ⟨0x0600, 0xFF00⟩, ⟨0x0700, 0xFF00⟩,
   ⟨0x0800, 0xFF00⟩, ⟨0x0900, 0xFF00⟩, ⟨0x0A00, 0xFF00⟩, ⟨0x0B00, 0xFF00⟩, ⟨0x0C00, 0xFF00⟩, ⟨0x0D00, 0xFF00⟩,
   ⟨0x0E00, 0xFF00⟩, ⟨0x0F00, 0xFF00⟩] ++
  [⟨0x1000, 0xFC00⟩, ⟨0x1400, 0xFC00⟩, ⟨0x1800, 0xFC00⟩, ⟨0x1C00, 0xFC00⟩] ++
  [⟨0x2000, 0xF800⟩, ⟨0x2800, 0xF800⟩] ++
  [⟨0x3000, 0xFC00⟩, ⟨0x3400, 0xFC00⟩, ⟨0x3800, 0xFF00⟩, ⟨0x3900, 0xFF00⟩, ⟨0x3A00, 0xFF00⟩, ⟨0x3B00, 0xFF00⟩,
   ⟨0x3C00, 0xFE00⟩, ⟨0x3E00, 0xFE00⟩] ++
  [⟨0x4000, 0xC000⟩, ⟨0x8000, 0xC000⟩, ⟨0xC000, 0xC000⟩]

end Sys2Proof
end

