-- ==== Sys2Proof/Config.lean ====
section
/-! DEFINITION. The implementation parameters of 00_scope.md section 3 (R5 to R8) and the alternative of
93_implementation_defined.md, as ONE record of plain data. The spec leaves every one of them OPEN ("A model takes these as
arguments"), so a State carries the record its session was built with: every statement about a state then holds for every
value of the parameters (DESIGN CHOICE, log entry 2). No instruction changes it. -/

namespace Sys2Proof

/-- The parameters of one core, fixed when its session is created. -/
structure Config where
  /-- `PC_WIDTH` (R5): width of the program counter and of every call-stack entry. -/
  pcWidth : Nat
  /-- `STACK_DEPTH` (R6): capacity of the call stack. -/
  stackDepth : Nat
  /-- `STATUS_ADDR` (R7): register-file address of the status byte. -/
  statusAddr : RegAddr
  /-- `C_BIT` (R7). -/
  cBit : Fin 8
  /-- `DC_BIT` (R7). -/
  dcBit : Fin 8
  /-- `Z_BIT` (R7). -/
  zBit : Fin 8
  /-- `INTCON_ADDR` (R8): register-file address of the interrupt-control byte. -/
  intconAddr : RegAddr
  /-- `GIE_BIT` (R8). -/
  gieBit : Fin 8
  /-- `ROTATE_CARRY_LITERAL` (93_implementation_defined.md I17): the source's literal rotate-carry formulas instead of the
  bit rotated out. The spec's default is false. -/
  rotateCarryLiteral : Bool
  deriving DecidableEq, Repr

/-- The defaults of R5, R6, R7, R8 and I17. -/
def Config.default : Config where
  pcWidth := 11
  stackDepth := 8
  statusAddr := 0x03#7
  cBit := 0
  dcBit := 1
  zBit := 2
  intconAddr := 0x0B#7
  gieBit := 7
  rotateCarryLiteral := false

/-- The constraints the spec puts on the parameters: R5 (`PC_WIDTH >= 11`), R6 (a positive depth), R7 (the three flag bits
pairwise distinct), R8 (`INTCON_ADDR != STATUS_ADDR`). -/
abbrev Config.Legal (c : Config) : Prop :=
  11 ≤ c.pcWidth ∧ 0 < c.stackDepth ∧
  c.cBit ≠ c.dcBit ∧ c.cBit ≠ c.zBit ∧ c.dcBit ≠ c.zBit ∧
  c.intconAddr ≠ c.statusAddr

end Sys2Proof
end

