-- ==== Sys2Proof/Machine/State.lean ====
section
/-! DEFINITION. The machine's state as plain data (R20), the reasons a dispatch can stop, and session creation (R240). -/

namespace Sys2Proof.Machine

/-- The register file's storage (R22, R50, R51): address and byte pairs, addresses strictly rising and below 128, no entry
equal to what an unlisted address reads as (Sys2Proof/Machine/Memory.lean). -/
abbrev Memory := List Host.Cell

/-- The embedder's program image (R54, R246): word address and 16-bit word pairs, addresses strictly rising. An unlisted
address holds no word (DESIGN CHOICE, log entry 8). -/
abbrev Program := List (Nat × Word)

/-- What the latest completed dispatch reported on the `outcome` port (R40). The fourth outcome, FAULT, changes no state
(R224) and is the host's `fault` (DEDUCED, log entry 4; DESIGN CHOICE for the field, log entry 5). -/
inductive Signal where
  /-- OK: normal continuation. -/
  | ok
  /-- STANDBY: SLEEP was executed. -/
  | standby
  /-- EXIT(k): RETLW on an empty stack, with its 8-bit exit code. -/
  | exit (k : Byte)
  deriving DecidableEq, Repr

/-- Why a step stops with a fault. The first four are the spec's fault kinds (R221), which end the run (R248); the last is the
model's name for a fetch that the spec leaves without a step. -/
inductive Fault where
  /-- `instr[15:14] != 0`. Raised by the dispatcher (INVALID_CLASS rows, R101). Safe: the spec's own outcome. -/
  | invalidInstructionClass
  /-- An unassigned encoding of class 0 (INVALID_C0, R126) or class 3 (INVALID_L, R198). Safe: the spec's own outcome. -/
  | invalidInstruction
  /-- CALL with `|S| = STACK_DEPTH` (R181). Safe: the spec's own outcome. -/
  | stackFull
  /-- RETURN or RETFIE with `|S| = 0` (R122, R123). Safe: the spec's own outcome. -/
  | stackEmpty
  /-- The embedder's image holds no word at `PC`. Raised by the fetch in `step`, by no instruction (R246, I13: stuck; DESIGN
  CHOICE, log entry 7). Safe: no step is taken where the spec gives none. -/
  | noProgramWord
  deriving DecidableEq, Repr

/-- Why a step is refused. -/
inductive Refusal where
  /-- An instruction without a meaning, named as the opcode table names it. Raised by a refused arm of `exec`; no arm is left
  that does. Safe. -/
  | notModelled (mnemonic : String)
  /-- The run is over: `running` is false, or the last outcome was not OK (R249: "A model gives it no step"). Raised by `step`,
  by no instruction (DESIGN CHOICE, log entry 6). Safe. -/
  | runEnded
  deriving DecidableEq, Repr

/-- The processor state of R20, with the parameters it was built with (R5 to R8), the outcome port's last value (R40, R42) and
the program image its embedder owns (R246). -/
structure State where
  /-- The parameters, fixed at construction. -/
  config : Config
  /-- The accumulator `W` (R21). -/
  w : Byte
  /-- The program counter `PC` (R23), an unsigned word address; every write is reduced modulo `2^PC_WIDTH` (R25; DEDUCED,
  log entry 3). -/
  pc : Nat
  /-- The call stack `S` (R33, R210), bottom first and top last. -/
  stack : List Nat
  /-- The run flag (R32). -/
  running : Bool
  /-- The register file `RF` (R22); C, DC, Z and GIE are bits in it (R26, R31). -/
  rf : Memory
  /-- The outcome of the latest completed dispatch (R40). -/
  signal : Signal
  /-- The embedder's program image (R54). -/
  program : Program
  deriving DecidableEq, Repr

/-- What one dispatch answers: a next state (OK, STANDBY or EXIT, as its `signal` says), a fault, or a refusal. -/
abbrev DispatchResult := Host.Outcome State Fault Refusal

/-- Session creation (R240): `PC` is 0 (R242), the stack empty (R243), `running` true (R244); `W_INIT` and `RF_INIT` are draws
(R9, R241, R245) and the image is the embedder's (R246), so all three are arguments. -/
def State.create (c : Config) (wInit : Byte) (rfInit : Memory) (image : Program) : State where
  config := c
  w := wInit
  pc := 0
  stack := []
  running := true
  rf := rfInit
  signal := .ok
  program := image

/-- The machine right after reset, with the default parameters and no image loaded. `W_INIT` and `RF_INIT` are zero here
(DESIGN CHOICE, log entry 1: the spec gives no value). -/
def State.reset : State := State.create Config.default 0#8 [] []

end Sys2Proof.Machine
end

