-- ==== Sys2Proof/Machine/Memory.lean ====
section
/-! DEFINITION. The two stores as canonical lists: the register file behind the `get`/`set` port (R50, R51) and the embedder's
program image (R54). -/

namespace Sys2Proof.Machine

/-! ### The register file. -/

/-- What a byte that nothing has written reads as (DESIGN CHOICE, log entry 1): `RF_INIT` of any content is the list of its
nonzero bytes. -/
def Memory.unlisted (_a : Nat) : Byte := 0#8

/-- `get(a)` (R50): total, no side effect. -/
def Memory.read : Memory → Nat → Byte
  | [], a => Memory.unlisted a
  | (k, v) :: m, a => if k = a then v else Memory.read m a

/-- A cell in front of a list, unless it holds what an unlisted address reads as. -/
def Memory.cell (a : Nat) (v : Byte) (m : Memory) : Memory :=
  if v = Memory.unlisted a then m else (a, v) :: m

/-- `set(a, v)` (R50), keeping the canonical form. -/
def Memory.write : Memory → Nat → Byte → Memory
  | [], a, v => Memory.cell a v []
  | (k, u) :: m, a, v =>
    if a < k then Memory.cell a v ((k, u) :: m)
    else if a = k then Memory.cell a v m
    else (k, u) :: Memory.write m a v

/-- The canonical form from address `lo` on: addresses strictly rising, below 128 (R52), no entry equal to what an unlisted
address reads as. -/
def Memory.wfFrom (lo : Nat) : Memory → Bool
  | [] => true
  | (k, v) :: m => decide (lo ≤ k) && decide (k < 128) && decide (v ≠ Memory.unlisted k) && Memory.wfFrom (k + 1) m

/-- The canonical form of the whole register file. -/
def Memory.wf (m : Memory) : Bool := Memory.wfFrom 0 m

/-! ### The program image. -/

/-- The word at a program address, if the image holds one (R246 (b)). -/
def Program.lookup : Program → Nat → Option Word
  | [], _ => none
  | (k, x) :: p, a => if k = a then some x else Program.lookup p a

/-- The embedder places a word in its image (R246 (a)). No instruction does (R55). -/
def Program.place : Program → Nat → Word → Program
  | [], a, x => [(a, x)]
  | (k, y) :: p, a, x =>
    if a < k then (a, x) :: (k, y) :: p
    else if a = k then (a, x) :: p
    else (k, y) :: Program.place p a x

/-- Addresses strictly rising from `lo` on. -/
def Program.wfFrom (lo : Nat) : Program → Bool
  | [] => true
  | (k, _) :: p => decide (lo ≤ k) && Program.wfFrom (k + 1) p

/-- The canonical form of an image. -/
def Program.wf (p : Program) : Bool := Program.wfFrom 0 p

end Sys2Proof.Machine
end

