-- ==== Sys2Proof/Machine/Ops.lean ====
section
/-! DEFINITION. The named operations over the state that every executor shares: the register-file port, `W`, `PC`, the call
stack, and the ways a dispatch ends (R13, R14, R40). The core has no trap entry (R226): raising a fault is the one operation
`raise`, and the return RETURN, RETFIE and RETLW share is `State.pop` followed by `State.setPc`. -/

namespace Sys2Proof.Machine

/-! ### The register-file port. -/

/-- `MemRead(a, 1)` (R50), on plain storage (R51; DEDUCED, log entry 12). -/
def State.memRead (s : State) (a : RegAddr) : Byte := s.rf.read a.toNat

/-- `MemWrite(a, 1, v)` (R50). -/
def State.memWrite (s : State) (a : RegAddr) (v : Byte) : State := { s with rf := s.rf.write a.toNat v }

/-- The status byte `F[STATUS_ADDR]` (R26). -/
def State.status (s : State) : Byte := s.memRead s.config.statusAddr

/-- The interrupt-control byte `F[INTCON_ADDR]` (R31). -/
def State.intcon (s : State) : Byte := s.memRead s.config.intconAddr

/-- Carry (R27). -/
def State.flagC (s : State) : Bool := s.status.getLsbD s.config.cBit.val

/-- Digit-Carry (R28). -/
def State.flagDC (s : State) : Bool := s.status.getLsbD s.config.dcBit.val

/-- Zero (R29). -/
def State.flagZ (s : State) : Bool := s.status.getLsbD s.config.zBit.val

/-- Global Interrupt Enable (R31). -/
def State.gie (s : State) : Bool := s.intcon.getLsbD s.config.gieBit.val

/-! ### `W`, `PC`, `running`. -/

/-- `W <- v` (R13). -/
def State.setW (s : State) (v : Byte) : State := { s with w := v }

/-- `pc <- t`, reduced modulo `2^PC_WIDTH` (R13, R25). -/
def State.setPc (s : State) (t : Nat) : State := { s with pc := t % 2 ^ s.config.pcWidth }

/-- `Adv(n)` (R104). -/
def State.adv (s : State) (n : Nat) : State := s.setPc (s.pc + n)

/-- The return address of CALL, `(PC + 1) mod 2^PC_WIDTH` (R181). -/
def State.returnAddr (s : State) : Nat := (s.pc + 1) % 2 ^ s.config.pcWidth

/-- `running <- false` (R192). -/
def State.stopRunning (s : State) : State := { s with running := false }

/-! ### The call stack (R210 to R215). -/

/-- `empty`: `|S| = 0` (R214). -/
def State.stackIsEmpty (s : State) : Bool := s.stack.length == 0

/-- `full`: `|S| = STACK_DEPTH` (R214; DEDUCED, log entry 13). -/
def State.stackIsFull (s : State) : Bool := s.stack.length == s.config.stackDepth

/-- `Push(v)` (R211): `none` is the failure `stack full`, which changes nothing. -/
def State.push (s : State) (v : Nat) : Option State :=
  if s.stackIsFull then none else some { s with stack := s.stack ++ [v] }

/-- `Pop()` (R212): the top entry and the state without it; `none` is the failure `stack empty`, which changes nothing. -/
def State.pop (s : State) : Option (Nat × State) :=
  match s.stack.getLast? with
  | none => none
  | some v => some (v, { s with stack := s.stack.dropLast })

/-- `clear` (R213): the reset state of the stack; no instruction invokes it. -/
def State.clearStack (s : State) : State := { s with stack := [] }

/-! ### The ends of a dispatch (R14, R40). -/

/-- The value the dispatch leaves on the `outcome` port. -/
def State.setSignal (s : State) (g : Signal) : State := { s with signal := g }

/-- Outcome OK. -/
def finish (s : State) : DispatchResult := .next (s.setSignal .ok)

/-- `signal Standby`: outcome STANDBY (R124). -/
def signalStandby (s : State) : DispatchResult := .next (s.setSignal .standby)

/-- `signal Exit(k)`: outcome EXIT(k) (R192). -/
def signalExit (k : Byte) (s : State) : DispatchResult := .next (s.setSignal (.exit k))

/-- `raise Fault(kind)` (R14): outcome FAULT(kind). A fault saves nothing, switches no mode and goes to no vector (R222, R226);
no state changes (R224), so the answer carries the kind and the embedder keeps the state it had
(DEDUCED, log entry 4). -/
def raise (kind : Fault) : DispatchResult := .fault kind

/-- The state the embedder holds after a dispatch (R224, R246 (c)): the next state, or after a fault the state before it. -/
def stateAfter (s : State) : DispatchResult → State
  | .next t => t
  | .fault _ => s
  | .refused _ => s

end Sys2Proof.Machine
end

