-- ==== Sys2Proof/Machine/Operands.lean ====
section
/-! DEFINITION. Operand forms and the arithmetic primitives of R12: bytes as 16-bit intermediates (R105), bits of a byte, the
destination write of R120 and the skip of R104. The only addressing mode is direct (R52): the operand `f` is
`State.memRead f`. -/

namespace Sys2Proof.Machine

/-- An operand byte as a 16-bit intermediate, upper bits zero (R12, R105). -/
def zext16 (v : Byte) : Word := v.setWidth 16

/-- `trunc8` (R12): the stored result of a 16-bit intermediate (R105). -/
def trunc8 (r : Word) : Byte := r.setWidth 8

/-- `NEG16` (R12): 16-bit two's-complement negation. -/
def neg16 (y : Word) : Word := 0#16 - y

/-- `not8` (R12). -/
def not8 (v : Byte) : Byte := v ^^^ 0xFF#8

/-- `1 << i` in a byte. -/
def bitMask (i : Nat) : Byte := 1#8 <<< i

/-- A Boolean as a bit of a byte (R12). -/
def bit8 (v : Bool) : Byte := if v then 1#8 else 0#8

/-- A byte with bit `i` replaced (the middle line of R106). -/
def withBit (x : Byte) (i : Nat) (v : Bool) : Byte := (x &&& not8 (bitMask i)) ||| (bit8 v <<< i)

/-- The low nibble `v[3:0]`. -/
def lowNibble (v : Byte) : Byte := v &&& 0x0F#8

/-- `WriteDest` (R120): register `f` if `d = 1`, else `W`. -/
def State.writeDest (s : State) (f : RegAddr) (d : Dest) (v : Byte) : State :=
  match d with
  | .w => s.setW v
  | .f => s.memWrite f v

/-- The advance of a skip-class instruction (R104): 2 if the condition holds, else 1. -/
def State.advSkip (s : State) (skip : Bool) : State := s.adv (if skip then 2 else 1)

/-- `zext_PC_WIDTH(instr[10:0])` (R76, R180); `State.setPc` reduces it. -/
def target (k : BitVec 11) : Nat := k.toNat

end Sys2Proof.Machine
end

