-- ==== Sys2Proof/Machine/Flags.lean ====
section
/-! DEFINITION. The flag-update logic every executor shares (R106 to R110): the status read-modify-write, the carry vectors of
addition and subtraction, the zero test, and the carry in and out of the rotates (R139, R140). -/

namespace Sys2Proof.Machine

/-- `SetFlag(bit, v)` (R106). -/
def State.setFlag (s : State) (bit : Fin 8) (v : Bool) : State :=
  s.memWrite s.config.statusAddr (withBit (s.memRead s.config.statusAddr) bit.val v)

/-- `SetZ(res16)` (R109): tests the truncated result. -/
def State.setZ (s : State) (res : Word) : State := s.setFlag s.config.zBit (trunc8 res == 0#8)

/-- The XOR identity of R107 and R108: `result xor operand1 xor operand2` in 16 bits. -/
def carryVector (res x y : Word) : Word := res ^^^ x ^^^ y

/-- DC from bit 4, then C from bit 8 (R107, R108, R110). -/
def State.setCarries (s : State) (cv : Word) : State :=
  let s1 := s.setFlag s.config.dcBit (cv.getLsbD 4)
  s1.setFlag s1.config.cBit (cv.getLsbD 8)

/-- The 16-bit sum (R105). -/
def sum16 (x y : Byte) : Word := zext16 x + zext16 y

/-- The 16-bit difference `x - y` (R105). -/
def diff16 (x y : Byte) : Word := zext16 x - zext16 y

/-- The carry vector of an addition (R107). -/
def addVector (x y : Byte) (res : Word) : Word := carryVector res (zext16 x) (zext16 y)

/-- The carry vector of a subtraction `x - y` (R108): the subtrahend negated, `NEG16(0) = 0`
(DEDUCED, log entry 10). -/
def subVector (x y : Byte) (res : Word) : Word := carryVector res (zext16 x) (neg16 (zext16 y))

/-- `AddFlags` (R107). -/
def State.addFlags (s : State) (x y : Byte) (res : Word) : State := s.setCarries (addVector x y res)

/-- `SubFlags` (R108). -/
def State.subFlags (s : State) (x y : Byte) (res : Word) : State := s.setCarries (subVector x y res)

/-- The carry-in of a rotate: bit `C_BIT` of the status byte (R139). -/
def State.carryIn (s : State) : Bool := (s.memRead s.config.statusAddr).getLsbD s.config.cBit.val

/-- `(regVal << 1) or cin`, 9 bits (R139). -/
def rotateLeft16 (regVal : Byte) (cin : Bool) : Word := (zext16 regVal <<< 1) ||| zext16 (bit8 cin)

/-- `(regVal >> 1) or (cin << 7)` (R140). -/
def rotateRight16 (regVal : Byte) (cin : Bool) : Word := (zext16 regVal >>> 1) ||| (zext16 (bit8 cin) <<< 7)

/-- RLF's carry-out: the bit rotated out (R139), or the source's literal formula where `ROTATE_CARRY_LITERAL` is true (I17;
DEDUCED, log entry 11). -/
def leftCarryOut (c : Config) (regVal : Byte) : Bool :=
  if c.rotateCarryLiteral then regVal ||| 1#8 == 1#8 else regVal.getLsbD 7

/-- RRF's carry-out: the bit rotated out (R140), or the source's literal formula where `ROTATE_CARRY_LITERAL` is true (I17;
DEDUCED, log entry 11). -/
def rightCarryOut (c : Config) (regVal : Byte) : Bool :=
  if c.rotateCarryLiteral then (regVal >>> 7) ||| 1#8 == 1#8 else regVal.getLsbD 0

end Sys2Proof.Machine
end

