-- ==== Sys2Proof/Machine/AluRegister.lean ====
section
/-! DEFINITION. Class 0, sub-opcodes 1 to 0xF (R120, R127 to R142). Each reads its operands, computes `res16`, writes the
destination, updates its flags in the order DC, C, Z, and advances `PC`, in that order (R113). -/

namespace Sys2Proof.Machine

/-- Destination, then Z, then `Adv(1)`: the end shared by the operations that write Z only. -/
def finishZ (f : RegAddr) (d : Dest) (res : Word) (s : State) : DispatchResult :=
  finish (((s.writeDest f d (trunc8 res)).setZ res).adv 1)

/-- Destination, then `Adv(2)` if the truncated result is 0, else `Adv(1)`; no flag (R138, R142). -/
def finishSkipIfZero (f : RegAddr) (d : Dest) (res : Word) (s : State) : DispatchResult :=
  finish ((s.writeDest f d (trunc8 res)).advSkip (trunc8 res == 0#8))

/-- Destination, then C from the bit rotated out, then Z, then `Adv(1)` (R139, R140). -/
def finishRotate (f : RegAddr) (d : Dest) (res : Word) (cout : Bool) (s : State) : DispatchResult :=
  let s1 := s.writeDest f d (trunc8 res)
  finish (((s1.setFlag s1.config.cBit cout).setZ res).adv 1)

/-- CLRW (R128). -/
def execClrw (s : State) : DispatchResult := finishZ 0#7 .w 0#16 s

/-- CLRF (R127). -/
def execClrf (f : RegAddr) (s : State) : DispatchResult := finishZ f .f 0#16 s

/-- SUBWF (R129): `regVal - accumVal`. -/
def execSubwf (f : RegAddr) (d : Dest) (s : State) : DispatchResult :=
  let regVal := s.memRead f
  let accumVal := s.w
  let res := diff16 regVal accumVal
  finish ((((s.writeDest f d (trunc8 res)).subFlags regVal accumVal res).setZ res).adv 1)

/-- DECF (R130). -/
def execDecf (f : RegAddr) (d : Dest) (s : State) : DispatchResult := finishZ f d (diff16 (s.memRead f) 1#8) s

/-- IORWF (R131). -/
def execIorwf (f : RegAddr) (d : Dest) (s : State) : DispatchResult := finishZ f d (zext16 (s.memRead f ||| s.w)) s

/-- ANDWF (R132). -/
def execAndwf (f : RegAddr) (d : Dest) (s : State) : DispatchResult := finishZ f d (zext16 (s.memRead f &&& s.w)) s

/-- XORWF (R133). -/
def execXorwf (f : RegAddr) (d : Dest) (s : State) : DispatchResult := finishZ f d (zext16 (s.memRead f ^^^ s.w)) s

/-- ADDWF (R134). -/
def execAddwf (f : RegAddr) (d : Dest) (s : State) : DispatchResult :=
  let regVal := s.memRead f
  let accumVal := s.w
  let res := sum16 regVal accumVal
  finish ((((s.writeDest f d (trunc8 res)).addFlags regVal accumVal res).setZ res).adv 1)

/-- MOVF (R135). -/
def execMovf (f : RegAddr) (d : Dest) (s : State) : DispatchResult := finishZ f d (zext16 (s.memRead f)) s

/-- COMF (R136). -/
def execComf (f : RegAddr) (d : Dest) (s : State) : DispatchResult := finishZ f d (zext16 (not8 (s.memRead f))) s

/-- INCF (R137). -/
def execIncf (f : RegAddr) (d : Dest) (s : State) : DispatchResult := finishZ f d (sum16 (s.memRead f) 1#8) s

/-- DECFSZ (R138). -/
def execDecfsz (f : RegAddr) (d : Dest) (s : State) : DispatchResult := finishSkipIfZero f d (diff16 (s.memRead f) 1#8) s

/-- RLF (R139): the carry-in is read before any write. -/
def execRlf (f : RegAddr) (d : Dest) (s : State) : DispatchResult :=
  let regVal := s.memRead f
  finishRotate f d (rotateLeft16 regVal s.carryIn) (leftCarryOut s.config regVal) s

/-- RRF (R140): the carry-in is read before any write. -/
def execRrf (f : RegAddr) (d : Dest) (s : State) : DispatchResult :=
  let regVal := s.memRead f
  finishRotate f d (rotateRight16 regVal s.carryIn) (rightCarryOut s.config regVal) s

/-- `(regVal[3:0] << 4) or regVal[7:4]` (R141). -/
def swapNibbles (v : Byte) : Byte := (lowNibble v <<< 4) ||| (v >>> 4)

/-- SWAPF (R141): no flag. -/
def execSwapf (f : RegAddr) (d : Dest) (s : State) : DispatchResult :=
  finish ((s.writeDest f d (swapNibbles (s.memRead f))).adv 1)

/-- INCFSZ (R142). -/
def execIncfsz (f : RegAddr) (d : Dest) (s : State) : DispatchResult := finishSkipIfZero f d (sum16 (s.memRead f) 1#8) s

end Sys2Proof.Machine
end

