-- ==== Sys2Proof/Machine/Bit.lean ====
section
/-! DEFINITION. Class 1, the bit executor (R170 to R174). No flag, no fault; the status byte may be the register named. -/

namespace Sys2Proof.Machine

/-- BCF (R171). -/
def execBcf (f : RegAddr) (b : BitVec 3) (s : State) : DispatchResult :=
  finish ((s.memWrite f (s.memRead f &&& not8 (bitMask b.toNat))).adv 1)

/-- BSF (R172). -/
def execBsf (f : RegAddr) (b : BitVec 3) (s : State) : DispatchResult :=
  finish ((s.memWrite f (s.memRead f ||| bitMask b.toNat)).adv 1)

/-- BTFSC (R173). -/
def execBtfsc (f : RegAddr) (b : BitVec 3) (s : State) : DispatchResult :=
  finish (s.advSkip (!(s.memRead f).getLsbD b.toNat))

/-- BTFSS (R174). -/
def execBtfss (f : RegAddr) (b : BitVec 3) (s : State) : DispatchResult :=
  finish (s.advSkip ((s.memRead f).getLsbD b.toNat))

end Sys2Proof.Machine
end

