-- ==== Sys2Proof/Machine/Control.lean ====
section
/-! DEFINITION. Class 2, the control-transfer executor (R180 to R182). -/

namespace Sys2Proof.Machine

/-- CALL (R181): the push comes first; its failure changes nothing. -/
def execCall (k : BitVec 11) (s : State) : DispatchResult :=
  match s.push s.returnAddr with
  | none => raise .stackFull
  | some s1 => finish (s1.setPc (target k))

/-- GOTO (R182). -/
def execGoto (k : BitVec 11) (s : State) : DispatchResult := finish (s.setPc (target k))

end Sys2Proof.Machine
end

