-- ==== Sys2Proof/Machine/Literal.lean ====
section
/-! DEFINITION. Class 3, the literal executor (R190 to R197). -/

namespace Sys2Proof.Machine

/-- `W <- trunc8(res16)`, then Z, then `Adv(1)`. -/
def finishLiteralZ (res : Word) (s : State) : DispatchResult :=
  finish (((s.setW (trunc8 res)).setZ res).adv 1)

/-- MOVLW (R191): no flag. -/
def execMovlw (k : Byte) (s : State) : DispatchResult := finish ((s.setW k).adv 1)

/-- RETLW (R192): on an empty stack the program's exit, which changes `running` only (C1); else W is loaded and `PC` popped. -/
def execRetlw (k : Byte) (s : State) : DispatchResult :=
  match s.pop with
  | none => signalExit k s.stopRunning
  | some (ret, s1) => finish ((s1.setW k).setPc ret)

/-- IORLW (R195). -/
def execIorlw (k : Byte) (s : State) : DispatchResult := finishLiteralZ (zext16 (k ||| s.w)) s

/-- ANDLW (R196). -/
def execAndlw (k : Byte) (s : State) : DispatchResult := finishLiteralZ (zext16 (k &&& s.w)) s

/-- XORLW (R197). -/
def execXorlw (k : Byte) (s : State) : DispatchResult := finishLiteralZ (zext16 (k ^^^ s.w)) s

/-- SUBLW (R193): literal minus W, the subtrahend taken before W is written. -/
def execSublw (k : Byte) (s : State) : DispatchResult :=
  let a := s.w
  let res := diff16 k a
  finish ((((s.setW (trunc8 res)).subFlags k a res).setZ res).adv 1)

/-- ADDLW (R194). -/
def execAddlw (k : Byte) (s : State) : DispatchResult :=
  let a := s.w
  let res := sum16 k a
  finish ((((s.setW (trunc8 res)).addFlags k a res).setZ res).adv 1)

end Sys2Proof.Machine
end

