-- ==== Sys2Proof/Machine/Special.lean ====
section
/-! DEFINITION. Class 0, sub-opcode 0 (R121 to R126) and the encodings that only raise a fault (R101, R126, R198). -/

namespace Sys2Proof.Machine

/-- NOP (R125). -/
def execNop (s : State) : DispatchResult := finish (s.adv 1)

/-- RETURN (R122): the pop comes first; its failure changes nothing. -/
def execReturn (s : State) : DispatchResult :=
  match s.pop with
  | none => raise .stackEmpty
  | some (ret, s1) => finish (s1.setPc ret)

/-- The read-modify-write that sets GIE (R123). -/
def State.setGie (s : State) : State :=
  s.memWrite s.config.intconAddr (s.memRead s.config.intconAddr ||| bitMask s.config.gieBit.val)

/-- RETFIE (R123): a RETURN that also sets GIE; a failed pop leaves GIE as it was. -/
def execRetfie (s : State) : DispatchResult :=
  match s.pop with
  | none => raise .stackEmpty
  | some (ret, s1) => finish (s1.setPc ret).setGie

/-- SLEEP (R124): `Adv(1); signal Standby`; `running` is not changed (C10). -/
def execSleep (s : State) : DispatchResult := signalStandby (s.adv 1)

/-- INVALID_C0 (R126). -/
def execInvalidC0 (_f : RegAddr) (_s : State) : DispatchResult := raise .invalidInstruction

/-- MOVWF (R121): no flag is written, even at `STATUS_ADDR`. -/
def execMovwf (f : RegAddr) (s : State) : DispatchResult := finish ((s.memWrite f s.w).adv 1)

/-- INVALID_L (R198). -/
def execInvalidL (_s : State) : DispatchResult := raise .invalidInstruction

/-- INVALID_CLASS with `instr[15:14] = 01` (R101). -/
def execInvalidClass1 (_s : State) : DispatchResult := raise .invalidInstructionClass

/-- INVALID_CLASS with `instr[15:14] = 10` (R101). -/
def execInvalidClass2 (_s : State) : DispatchResult := raise .invalidInstructionClass

/-- INVALID_CLASS with `instr[15:14] = 11` (R101). -/
def execInvalidClass3 (_s : State) : DispatchResult := raise .invalidInstructionClass

end Sys2Proof.Machine
end

