-- ==== Sys2Proof/Machine/Dispatch.lean ====
section
/-! DEFINITION. The routing of R102: one arm per constructor of Instr, each one direct call of the instruction's meaning. -/

namespace Sys2Proof.Machine

/-- One instruction executed at one state. -/
def exec (i : Instr) (s : State) : Host.Outcome State Fault Refusal :=
  match i with
  | .nop => Sys2Proof.Machine.execNop s
  | .ret => Sys2Proof.Machine.execReturn s
  | .retfie => Sys2Proof.Machine.execRetfie s
  | .sleep => Sys2Proof.Machine.execSleep s
  | .invalidC0 f => Sys2Proof.Machine.execInvalidC0 f s
  | .movwf f => Sys2Proof.Machine.execMovwf f s
  | .clrw => Sys2Proof.Machine.execClrw s
  | .clrf f => Sys2Proof.Machine.execClrf f s
  | .subwf f d => Sys2Proof.Machine.execSubwf f d s
  | .decf f d => Sys2Proof.Machine.execDecf f d s
  | .iorwf f d => Sys2Proof.Machine.execIorwf f d s
  | .andwf f d => Sys2Proof.Machine.execAndwf f d s
  | .xorwf f d => Sys2Proof.Machine.execXorwf f d s
  | .addwf f d => Sys2Proof.Machine.execAddwf f d s
  | .movf f d => Sys2Proof.Machine.execMovf f d s
  | .comf f d => Sys2Proof.Machine.execComf f d s
  | .incf f d => Sys2Proof.Machine.execIncf f d s
  | .decfsz f d => Sys2Proof.Machine.execDecfsz f d s
  | .rlf f d => Sys2Proof.Machine.execRlf f d s
  | .rrf f d => Sys2Proof.Machine.execRrf f d s
  | .swapf f d => Sys2Proof.Machine.execSwapf f d s
  | .incfsz f d => Sys2Proof.Machine.execIncfsz f d s
  | .bcf f b => Sys2Proof.Machine.execBcf f b s
  | .bsf f b => Sys2Proof.Machine.execBsf f b s
  | .btfsc f b => Sys2Proof.Machine.execBtfsc f b s
  | .btfss f b => Sys2Proof.Machine.execBtfss f b s
  | .call k => Sys2Proof.Machine.execCall k s
  | .goto k => Sys2Proof.Machine.execGoto k s
  | .movlw k => Sys2Proof.Machine.execMovlw k s
  | .retlw k => Sys2Proof.Machine.execRetlw k s
  | .iorlw k => Sys2Proof.Machine.execIorlw k s
  | .andlw k => Sys2Proof.Machine.execAndlw k s
  | .xorlw k => Sys2Proof.Machine.execXorlw k s
  | .invalidL => Sys2Proof.Machine.execInvalidL s
  | .sublw k => Sys2Proof.Machine.execSublw k s
  | .addlw k => Sys2Proof.Machine.execAddlw k s
  | .invalidClass1 => Sys2Proof.Machine.execInvalidClass1 s
  | .invalidClass2 => Sys2Proof.Machine.execInvalidClass2 s
  | .invalidClass3 => Sys2Proof.Machine.execInvalidClass3 s

end Sys2Proof.Machine
end

