-- ==== Sys2Proof/Machine/Fetch.lean ====
section
/-! DEFINITION. One dispatch of a 16-bit word (R100), and the embedder's side of the interface as far as R246 fixes it: when it
stops, which word it supplies, and the resumption R232 leaves to it. -/

namespace Sys2Proof.Machine

/-- One dispatch (R100): the word is decoded and executed to completion (R103). The core never reads `running` (R32). -/
def dispatch (word : Word) (s : State) : DispatchResult := exec (decode word) s

/-- The embedder "must stop fetching when the core reports `running == false` or signals standby/halt/error" (R41, R246 (d)). -/
def State.ended (s : State) : Bool := !s.running || s.signal != .ok

/-- The word the embedder supplies: the one at the current `PC` (R246 (b)). -/
def State.fetch (s : State) : Option Word := s.program.lookup s.pc

/-- The embedder chooses to dispatch again after standby (R232): the state is as SLEEP left it, and the next word is the one at
the advanced `PC`. No step does this by itself (R249; DESIGN CHOICE, log entry 6). -/
def State.resume (s : State) : State :=
  match s.signal with
  | .standby => s.setSignal .ok
  | .ok => s
  | .exit _ => s

/-- The image with one word placed at the current `PC` (R246 (a)). -/
def State.placeAtPc (s : State) (word : Word) : State := { s with program := s.program.place s.pc word }

end Sys2Proof.Machine
end

