-- ==== Sys2Proof/Machine/Step.lean ====
section
/-! DEFINITION. One step of the machine: the embedder's fetch, then one dispatch. -/

namespace Sys2Proof.Machine

/-- A step: none once the run is over (R249), stuck where the image holds no word (I13, D28), else one dispatch of the word at
`PC` (R246 (b)). -/
def step (s : State) : Host.Outcome State Fault Refusal :=
  if s.ended then .refused .runEnded
  else
    match s.fetch with
    | none => .fault .noProgramWord
    | some word => dispatch word s

/-- The state whose next fetch supplies the word with these bits. Every instruction is one 16-bit word (R70), so it is placed
whole at `PC` in the image; nothing else changes. -/
def State.withFetchWord (s : State) (nbits w : Nat) : State := s.placeAtPc (BitVec.ofNat 16 (w % 2 ^ nbits))

end Sys2Proof.Machine
end

