-- ==== Sys2Proof/Machine/Port.lean ====
section
/-! DEFINITION. The block's interface: what a dispatch reports on its ports (R40, R42, R221), and the register-file accesses
each instruction makes, in order (R59). -/

namespace Sys2Proof.Machine

/-- The two-bit outcome code of a completed dispatch (R40); FAULT is 3. -/
def Signal.code : Signal → BitVec 2
  | .ok => 0
  | .standby => 1
  | .exit _ => 2

/-- The exit code, valid when the outcome is EXIT (R42). -/
def Signal.exitCode : Signal → Option Byte
  | .ok => none
  | .standby => none
  | .exit k => some k

/-- The numeric fault kind (R221). The embedder's missing word is no outcome of a dispatch and has none. -/
def Fault.code : Fault → Option (BitVec 3)
  | .invalidInstructionClass => some 1
  | .invalidInstruction => some 2
  | .stackFull => some 3
  | .stackEmpty => some 4
  | .noProgramWord => none

/-- The output ports of R42 after a dispatch. -/
structure Ports where
  outcome : BitVec 2
  exitCode : Option Byte
  faultKind : Option (BitVec 3)
  running : Bool
  pc : Nat
  deriving DecidableEq, Repr

/-- What the embedder sees after dispatching at `s` (R42). After a fault `running` and `pc` are those before it (R222, R224). -/
def ports (s : State) : DispatchResult → Option Ports
  | .next t => some ⟨t.signal.code, t.signal.exitCode, none, t.running, t.pc⟩
  | .fault k =>
    match k.code with
    | some c => some ⟨3, none, some c, s.running, s.pc⟩
    | none => none
  | .refused _ => none

/-- One access on the register-file port. -/
inductive RfAccess where
  | read (a : RegAddr)
  | write (a : RegAddr)
  deriving DecidableEq, Repr

/-- One flag read-modify-write (R59, R106). -/
def flagRmw (c : Config) : List RfAccess := [.read c.statusAddr, .write c.statusAddr]

/-- The write of a result to its destination: an access only if `d = 1`. -/
def destAccess (f : RegAddr) : Dest → List RfAccess
  | .w => []
  | .f => [.write f]

/-- The accesses of an instruction that completes, in program order (R59), but for CLRW's read of the register its ignored bits
name, which `dispatchAccesses` adds. -/
def rfAccesses (c : Config) : Instr → List RfAccess
  | .nop => []
  | .ret => []
  | .retfie => [.read c.intconAddr, .write c.intconAddr]
  | .sleep => []
  | .invalidC0 _ => []
  | .movwf f => [.write f]
  | .clrw => flagRmw c
  | .clrf f => .read f :: .write f :: flagRmw c
  | .subwf f d => .read f :: destAccess f d ++ flagRmw c ++ flagRmw c ++ flagRmw c
  | .decf f d => .read f :: destAccess f d ++ flagRmw c
  | .iorwf f d => .read f :: destAccess f d ++ flagRmw c
  | .andwf f d => .read f :: destAccess f d ++ flagRmw c
  | .xorwf f d => .read f :: destAccess f d ++ flagRmw c
  | .addwf f d => .read f :: destAccess f d ++ flagRmw c ++ flagRmw c ++ flagRmw c
  | .movf f d => .read f :: destAccess f d ++ flagRmw c
  | .comf f d => .read f :: destAccess f d ++ flagRmw c
  | .incf f d => .read f :: destAccess f d ++ flagRmw c
  | .decfsz f d => .read f :: destAccess f d
  | .rlf f d => .read f :: .read c.statusAddr :: destAccess f d ++ flagRmw c ++ flagRmw c
  | .rrf f d => .read f :: .read c.statusAddr :: destAccess f d ++ flagRmw c ++ flagRmw c
  | .swapf f d => .read f :: destAccess f d
  | .incfsz f d => .read f :: destAccess f d
  | .bcf f _ => [.read f, .write f]
  | .bsf f _ => [.read f, .write f]
  | .btfsc f _ => [.read f]
  | .btfss f _ => [.read f]
  | .call _ => []
  | .goto _ => []
  | .movlw _ => []
  | .retlw _ => []
  | .iorlw _ => flagRmw c
  | .andlw _ => flagRmw c
  | .xorlw _ => flagRmw c
  | .invalidL => []
  | .sublw _ => flagRmw c ++ flagRmw c ++ flagRmw c
  | .addlw _ => flagRmw c ++ flagRmw c ++ flagRmw c
  | .invalidClass1 => []
  | .invalidClass2 => []
  | .invalidClass3 => []

/-- The register CLRW reads without using it (R59, R128): the one its ignored bits name. -/
def ignoredRead (word : Word) : List RfAccess :=
  if decode word = .clrw then [.read (fieldF word)] else []

/-- The accesses one dispatch makes, in program order (R59): none where it faults (R224), so RETFIE's only if its pop
succeeds. -/
def dispatchAccesses (word : Word) (s : State) : List RfAccess :=
  match dispatch word s with
  | .next _ => ignoredRead word ++ rfAccesses s.config (decode word)
  | .fault _ => []
  | .refused _ => []

end Sys2Proof.Machine
end

