-- ==== Sys2Proof/Safety.lean ====
section
/-! DEFINITION. Which states are legal, how a run ends (R248), what counts as a safe run, and the vocabulary the statements are
written in: what an instruction writes and what it leaves alone, said without the operations of Sys2Proof/Machine. -/

namespace Sys2Proof.Machine

/-! ### Legal states. -/

/-- Whether the latest outcome was EXIT. -/
def Signal.isExit : Signal → Bool
  | .ok => false
  | .standby => false
  | .exit _ => true

/-- The legal states: legal parameters, both stores in canonical form, `PC` and every return address below `2^PC_WIDTH`
(R25, R33), at most `STACK_DEPTH` entries (R33), and `running` false exactly after EXIT (R32, R227). -/
abbrev State.Inv (s : State) : Prop :=
  s.config.Legal ∧ s.rf.wf = true ∧ s.program.wf = true ∧
  s.pc < 2 ^ s.config.pcWidth ∧
  s.stack.length ≤ s.config.stackDepth ∧ (∀ e ∈ s.stack, e < 2 ^ s.config.pcWidth) ∧
  s.running = !s.signal.isExit

/-- The embedder may dispatch at this state (R41, R246 (d)): the session runs and nothing but OK has been signalled. -/
abbrev State.Live (s : State) : Prop := s.running = true ∧ s.signal = .ok

/-! ### Runs. -/

/-- How a run stands after some dispatches (R248), with the state the embedder holds. -/
inductive RunResult where
  /-- Outcome EXIT(k): a normal end. -/
  | exited (k : Byte) (s : State)
  /-- Outcome STANDBY: a normal end. -/
  | standby (s : State)
  /-- Outcome FAULT(kind), one of the four kinds of R221: the run ends faulted. -/
  | faulted (kind : Fault) (s : State)
  /-- No word in the image at `PC` (I13, D28): no end that R248 gives, the model takes no step (DESIGN CHOICE, log entry 7). -/
  | stuck (s : State)
  /-- A state at which no step is taken although the run made none of the above. -/
  | noStep (why : Refusal) (s : State)
  /-- No end yet. -/
  | going (s : State)
  deriving DecidableEq, Repr

/-- How a run stands where a step stopped with a fault: faulted, or stuck where the fault is the model's name for a missing
word. -/
def RunResult.ofFault : Fault → State → RunResult
  | .invalidInstructionClass, s => .faulted .invalidInstructionClass s
  | .invalidInstruction, s => .faulted .invalidInstruction s
  | .stackFull, s => .faulted .stackFull s
  | .stackEmpty, s => .faulted .stackEmpty s
  | .noProgramWord, s => .stuck s

/-- At most `n` steps from `s`, up to the first dispatch whose outcome is not OK (R248). -/
def runFor : Nat → State → RunResult
  | 0, s => .going s
  | n + 1, s =>
    match step s with
    | .fault k => .ofFault k s
    | .refused r => .noStep r s
    | .next t =>
      match t.signal with
      | .ok => runFor n t
      | .standby => .standby t
      | .exit k => .exited k t

/-- A run that within `n` steps has not faulted ("runs correctly" takes "no fault outcome" as a premise, R248) and is not
stuck. -/
def SafeFor (n : Nat) (s : State) : Prop :=
  (∀ k t, runFor n s ≠ .faulted k t) ∧ ∀ t, runFor n s ≠ .stuck t

/-! ### Flags, in closed form (R111, R112). -/

/-- `x + y > 255`. -/
def addC (x y : Byte) : Bool := decide (255 < x.toNat + y.toNat)

/-- `x[3:0] + y[3:0] > 15`. -/
def addDC (x y : Byte) : Bool := decide (15 < x.toNat % 16 + y.toNat % 16)

/-- `y != 0` and `x >= y`. -/
def subC (x y : Byte) : Bool := decide (y.toNat ≠ 0 ∧ y.toNat ≤ x.toNat)

/-- `y[3:0] != 0` and `x[3:0] >= y[3:0]`. -/
def subDC (x y : Byte) : Bool := decide (y.toNat % 16 ≠ 0 ∧ y.toNat % 16 ≤ x.toNat % 16)

/-- The flags an instruction's own semantics writes (R114), with their new values; `none` leaves a flag alone. -/
structure FlagWrites where
  dc : Option Bool := none
  c : Option Bool := none
  z : Option Bool := none

/-- Bit `i` of the status byte after the flag writes, where `base` is the byte before them (R106, R113). -/
def FlagWrites.bit (fl : FlagWrites) (cfg : Config) (base : Byte) (i : Fin 8) : Bool :=
  if i = cfg.zBit then fl.z.getD (base.getLsbD i.val)
  else if i = cfg.cBit then fl.c.getD (base.getLsbD i.val)
  else if i = cfg.dcBit then fl.dc.getD (base.getLsbD i.val)
  else base.getLsbD i.val

/-- `Z` from a result, and no other flag. -/
def zOnly (r : Byte) : FlagWrites := { z := some (decide (r = 0#8)) }

/-- The three flags of an addition. -/
def addWrites (x y : Byte) : FlagWrites :=
  { dc := some (addDC x y), c := some (addC x y), z := some (decide (x + y = 0#8)) }

/-- The three flags of a subtraction. -/
def subWrites (x y : Byte) : FlagWrites :=
  { dc := some (subDC x y), c := some (subC x y), z := some (decide (x - y = 0#8)) }

/-- The two flags of a rotate. -/
def rotateWrites (cout : Bool) (r : Byte) : FlagWrites := { c := some cout, z := some (decide (r = 0#8)) }

/-! ### What an instruction writes, and its frame. -/

/-- The dispatch ended OK with `PC` advanced by `n` (R104); stack, run flag, parameters and image are untouched. -/
def Advanced (n : Nat) (s t : State) : Prop :=
  t.pc = (s.pc + n) % 2 ^ s.config.pcWidth ∧ t.stack = s.stack ∧ t.running = s.running ∧ t.signal = .ok ∧
  t.config = s.config ∧ t.program = s.program

/-- The result `r` went to its destination, then the flag writes `fl` to the status byte (R113): `W` holds `r` if `d = 0`;
register `f` holds `r` if `d = 1`; every other register reads as before; the status byte is the one so far with the flag bits
replaced. -/
def Wrote (f : RegAddr) (d : Dest) (r : Byte) (fl : FlagWrites) (s t : State) : Prop :=
  t.w = (if d = .w then r else s.w) ∧
  (∀ a, a ≠ s.config.statusAddr → t.memRead a = if d = .f ∧ a = f then r else s.memRead a) ∧
  (∀ i : Fin 8, t.status.getLsbD i.val =
    fl.bit s.config (if d = .f ∧ f = s.config.statusAddr then r else s.status) i)

/-- An ALU instruction's whole effect: one result, its flags, an advance by 1 or 2. -/
def AluEffect (f : RegAddr) (d : Dest) (r : Byte) (fl : FlagWrites) (n : Nat) (s t : State) : Prop :=
  Wrote f d r fl s t ∧ Advanced n s t

/-- A literal instruction's whole effect: its result in `W`, its flags, an advance by 1 (R190). -/
def LiteralEffect (r : Byte) (fl : FlagWrites) (s t : State) : Prop :=
  AluEffect 0#7 .w r fl 1 s t

/-! ### Whole-machine tables, one arm per constructor. -/

/-- The fault an instruction raises at a state, if any (R221, R225). -/
def faultOf : Instr → State → Option Fault
  | .nop, _ => none
  | .ret, s => if s.stack = [] then some .stackEmpty else none
  | .retfie, s => if s.stack = [] then some .stackEmpty else none
  | .sleep, _ => none
  | .invalidC0 _, _ => some .invalidInstruction
  | .movwf _, _ => none
  | .clrw, _ => none
  | .clrf _, _ => none
  | .subwf _ _, _ => none
  | .decf _ _, _ => none
  | .iorwf _ _, _ => none
  | .andwf _ _, _ => none
  | .xorwf _ _, _ => none
  | .addwf _ _, _ => none
  | .movf _ _, _ => none
  | .comf _ _, _ => none
  | .incf _ _, _ => none
  | .decfsz _ _, _ => none
  | .rlf _ _, _ => none
  | .rrf _ _, _ => none
  | .swapf _ _, _ => none
  | .incfsz _ _, _ => none
  | .bcf _ _, _ => none
  | .bsf _ _, _ => none
  | .btfsc _ _, _ => none
  | .btfss _ _, _ => none
  | .call _, s => if s.stack.length = s.config.stackDepth then some .stackFull else none
  | .goto _, _ => none
  | .movlw _, _ => none
  | .retlw _, _ => none
  | .iorlw _, _ => none
  | .andlw _, _ => none
  | .xorlw _, _ => none
  | .invalidL, _ => some .invalidInstruction
  | .sublw _, _ => none
  | .addlw _, _ => none
  | .invalidClass1, _ => some .invalidInstructionClass
  | .invalidClass2, _ => some .invalidInstructionClass
  | .invalidClass3, _ => some .invalidInstructionClass

/-- What R248 says of the state in which a run stands or ends, for a run begun at a live legal state; the `stuck` arm is I13's and
not R248's (log entry 7). -/
def RunResult.AsSpecified : RunResult → Prop
  | .exited k t => t.Inv ∧ t.running = false ∧ t.signal = .exit k ∧ t.stack = []
  | .standby t => t.Inv ∧ t.running = true ∧ t.signal = .standby
  | .faulted k t =>
    t.Inv ∧ t.Live ∧ step t = .fault k ∧ ∃ x, t.program.lookup t.pc = some x ∧ faultOf (decode x) t = some k
  | .stuck t => t.Inv ∧ t.Live ∧ step t = .fault .noProgramWord ∧ t.program.lookup t.pc = none
  | .noStep _ _ => False
  | .going t => t.Inv ∧ t.Live

/-- `PC` advanced by `n` (R25). -/
def pcPlus (s : State) (n : Nat) : Nat := (s.pc + n) % 2 ^ s.config.pcWidth

/-- The return address on top of the stack, or `PC` itself where there is none. -/
def topOrPc (s : State) : Nat := (s.stack.getLast?).getD s.pc

/-- The table of R24: `PC` after an instruction, faults and the RETLW exit included. -/
def nextPc : Instr → State → Nat
  | .nop, s => pcPlus s 1
  | .ret, s => topOrPc s
  | .retfie, s => topOrPc s
  | .sleep, s => pcPlus s 1
  | .invalidC0 _, s => s.pc
  | .movwf _, s => pcPlus s 1
  | .clrw, s => pcPlus s 1
  | .clrf _, s => pcPlus s 1
  | .subwf _ _, s => pcPlus s 1
  | .decf _ _, s => pcPlus s 1
  | .iorwf _ _, s => pcPlus s 1
  | .andwf _ _, s => pcPlus s 1
  | .xorwf _ _, s => pcPlus s 1
  | .addwf _ _, s => pcPlus s 1
  | .movf _ _, s => pcPlus s 1
  | .comf _ _, s => pcPlus s 1
  | .incf _ _, s => pcPlus s 1
  | .decfsz f _, s => pcPlus s (if s.memRead f - 1#8 = 0#8 then 2 else 1)
  | .rlf _ _, s => pcPlus s 1
  | .rrf _ _, s => pcPlus s 1
  | .swapf _ _, s => pcPlus s 1
  | .incfsz f _, s => pcPlus s (if s.memRead f + 1#8 = 0#8 then 2 else 1)
  | .bcf _ _, s => pcPlus s 1
  | .bsf _ _, s => pcPlus s 1
  | .btfsc f b, s => pcPlus s (if (s.memRead f).getLsbD b.toNat = false then 2 else 1)
  | .btfss f b, s => pcPlus s (if (s.memRead f).getLsbD b.toNat = true then 2 else 1)
  | .call k, s => if s.stack.length = s.config.stackDepth then s.pc else k.toNat
  | .goto k, _ => k.toNat
  | .movlw _, s => pcPlus s 1
  | .retlw _, s => topOrPc s
  | .iorlw _, s => pcPlus s 1
  | .andlw _, s => pcPlus s 1
  | .xorlw _, s => pcPlus s 1
  | .invalidL, s => s.pc
  | .sublw _, s => pcPlus s 1
  | .addlw _, s => pcPlus s 1
  | .invalidClass1, s => s.pc
  | .invalidClass2, s => s.pc
  | .invalidClass3, s => s.pc

/-- The register a result goes to. -/
def destReg (f : RegAddr) : Dest → Option RegAddr
  | .w => none
  | .f => some f

/-- The register an instruction writes as data (R20's "writable by" column without the flag logic and RETFIE). -/
def dataDest : Instr → Option RegAddr
  | .nop => none
  | .ret => none
  | .retfie => none
  | .sleep => none
  | .invalidC0 _ => none
  | .movwf f => some f
  | .clrw => none
  | .clrf f => some f
  | .subwf f d => destReg f d
  | .decf f d => destReg f d
  | .iorwf f d => destReg f d
  | .andwf f d => destReg f d
  | .xorwf f d => destReg f d
  | .addwf f d => destReg f d
  | .movf f d => destReg f d
  | .comf f d => destReg f d
  | .incf f d => destReg f d
  | .decfsz f d => destReg f d
  | .rlf f d => destReg f d
  | .rrf f d => destReg f d
  | .swapf f d => destReg f d
  | .incfsz f d => destReg f d
  | .bcf f _ => some f
  | .bsf f _ => some f
  | .btfsc _ _ => none
  | .btfss _ _ => none
  | .call _ => none
  | .goto _ => none
  | .movlw _ => none
  | .retlw _ => none
  | .iorlw _ => none
  | .andlw _ => none
  | .xorlw _ => none
  | .invalidL => none
  | .sublw _ => none
  | .addlw _ => none
  | .invalidClass1 => none
  | .invalidClass2 => none
  | .invalidClass3 => none

/-- Which of DC, C and Z an instruction's own semantics writes (the table of R114). -/
structure FlagSet where
  dc : Bool
  c : Bool
  z : Bool

/-- The table of R114. -/
def flagsWritten : Instr → FlagSet
  | .nop => ⟨false, false, false⟩
  | .ret => ⟨false, false, false⟩
  | .retfie => ⟨false, false, false⟩
  | .sleep => ⟨false, false, false⟩
  | .invalidC0 _ => ⟨false, false, false⟩
  | .movwf _ => ⟨false, false, false⟩
  | .clrw => ⟨false, false, true⟩
  | .clrf _ => ⟨false, false, true⟩
  | .subwf _ _ => ⟨true, true, true⟩
  | .decf _ _ => ⟨false, false, true⟩
  | .iorwf _ _ => ⟨false, false, true⟩
  | .andwf _ _ => ⟨false, false, true⟩
  | .xorwf _ _ => ⟨false, false, true⟩
  | .addwf _ _ => ⟨true, true, true⟩
  | .movf _ _ => ⟨false, false, true⟩
  | .comf _ _ => ⟨false, false, true⟩
  | .incf _ _ => ⟨false, false, true⟩
  | .decfsz _ _ => ⟨false, false, false⟩
  | .rlf _ _ => ⟨false, true, true⟩
  | .rrf _ _ => ⟨false, true, true⟩
  | .swapf _ _ => ⟨false, false, false⟩
  | .incfsz _ _ => ⟨false, false, false⟩
  | .bcf _ _ => ⟨false, false, false⟩
  | .bsf _ _ => ⟨false, false, false⟩
  | .btfsc _ _ => ⟨false, false, false⟩
  | .btfss _ _ => ⟨false, false, false⟩
  | .call _ => ⟨false, false, false⟩
  | .goto _ => ⟨false, false, false⟩
  | .movlw _ => ⟨false, false, false⟩
  | .retlw _ => ⟨false, false, false⟩
  | .iorlw _ => ⟨false, false, true⟩
  | .andlw _ => ⟨false, false, true⟩
  | .xorlw _ => ⟨false, false, true⟩
  | .invalidL => ⟨false, false, false⟩
  | .sublw _ => ⟨true, true, true⟩
  | .addlw _ => ⟨true, true, true⟩
  | .invalidClass1 => ⟨false, false, false⟩
  | .invalidClass2 => ⟨false, false, false⟩
  | .invalidClass3 => ⟨false, false, false⟩

/-- A bit of the status byte that is none of the flags in the set. -/
def FlagSet.spares (fs : FlagSet) (cfg : Config) (i : Fin 8) : Prop :=
  (i = cfg.dcBit → fs.dc = false) ∧ (i = cfg.cBit → fs.c = false) ∧ (i = cfg.zBit → fs.z = false)

/-- Whether an instruction may write `W` (R20's "writable by" column). -/
def writesW : Instr → Bool
  | .nop => false
  | .ret => false
  | .retfie => false
  | .sleep => false
  | .invalidC0 _ => false
  | .movwf _ => false
  | .clrw => true
  | .clrf _ => false
  | .subwf _ d => d == .w
  | .decf _ d => d == .w
  | .iorwf _ d => d == .w
  | .andwf _ d => d == .w
  | .xorwf _ d => d == .w
  | .addwf _ d => d == .w
  | .movf _ d => d == .w
  | .comf _ d => d == .w
  | .incf _ d => d == .w
  | .decfsz _ d => d == .w
  | .rlf _ d => d == .w
  | .rrf _ d => d == .w
  | .swapf _ d => d == .w
  | .incfsz _ d => d == .w
  | .bcf _ _ => false
  | .bsf _ _ => false
  | .btfsc _ _ => false
  | .btfss _ _ => false
  | .call _ => false
  | .goto _ => false
  | .movlw _ => true
  | .retlw _ => true
  | .iorlw _ => true
  | .andlw _ => true
  | .xorlw _ => true
  | .invalidL => false
  | .sublw _ => true
  | .addlw _ => true
  | .invalidClass1 => false
  | .invalidClass2 => false
  | .invalidClass3 => false

/-- RETLW on an empty stack, the program's exit (R192). -/
def Exits (i : Instr) (s : State) : Prop := ∃ k, i = .retlw k ∧ s.stack = []

/-! ### The call stack as a unit (R216). -/

/-- Successive pushes; `none` if one fails. -/
def State.pushAll : State → List Nat → Option State
  | s, [] => some s
  | s, v :: vs =>
    match s.push v with
    | none => none
    | some t => t.pushAll vs

/-- Successive pops, the values in the order popped; `none` if one fails. -/
def State.popMany : Nat → State → Option (List Nat × State)
  | 0, s => some ([], s)
  | n + 1, s =>
    match s.pop with
    | none => none
    | some (v, t) =>
      match State.popMany n t with
      | none => none
      | some (vs, u) => some (v :: vs, u)

/-- The same instruction executed `n` times, as long as it completes. -/
def execTimes (i : Instr) : Nat → State → Option State
  | 0, s => some s
  | n + 1, s =>
    match exec i s with
    | .next t => execTimes i n t
    | .fault _ => none
    | .refused _ => none

end Sys2Proof.Machine
end

