-- ==== Sys2Proof/Certificates/Slice0/Obligations.lean ====
section
/-! DEFINITION. The statements for the provers. Each docstring names the rule or section of spec/ it formalises. "Legal" means
State.Inv of Sys2Proof/Safety.lean, which StepKeepsLegalStates states to be an invariant. Where a clause reduces `PC` or a return
address modulo `2^PC_WIDTH` it follows R25 and R104, whose wrap the spec marks as its own decision D2 (log entry 3). -/

open Sys2Proof Sys2Proof.Machine

/-! ### Encoding. -/

/-- Decode and encode agree on every well-formed instruction, every operand at every value (R72 to R81, R85). -/
def Obligations.DecodeInvertsEncode : Prop :=
  ∀ i : Instr, i.wellFormed = true → decode (encode i) = i

/-- Every word decodes to a well-formed instruction (R84: the decoder is total), and the decoder drops the bits R83 and R88
mark as ignored, and no other: a word with those bits cleared is the canonical word of what it decodes to. -/
def Obligations.DecodeDropsOnlyIgnoredBits : Prop :=
  ∀ x : Word, (decode x).wellFormed = true ∧ x &&& ~~~(decode x).ignoredBits = encode (decode x)

/-- R88 (which the spec derives from R71 to R82): every word matches the row of the instruction it decodes to, the rows other
than INVALID_C0 are disjoint (the one that matches is that row), and INVALID_C0 is taken only when no other row matches. -/
def Obligations.DecodeTakesTheOneMatchingRow : Prop :=
  ∀ x : Word,
    (decode x).row.fits x = true ∧
    ((decode x).row = fallbackRow ∨ (decode x).row ∈ opcodeRows) ∧
    (∀ r ∈ opcodeRows, r.fits x = true → r = (decode x).row)

/-- R83 (derived by the spec): the alias words decode alike, the silicon-only words 0x0062 and 0x0064 are invalid here. -/
def Obligations.AliasWordsDecodeAlike : Prop :=
  (∀ x : BitVec 2, decode (0b000000000#9 ++ x ++ 0b00000#5) = .nop) ∧
  (∀ x : BitVec 7, decode (0b000000010#9 ++ x) = .clrw) ∧
  (∀ (x : BitVec 2) (k : Byte), decode (0b001100#6 ++ x ++ k) = .movlw k) ∧
  (∀ (x : BitVec 2) (k : Byte), decode (0b001101#6 ++ x ++ k) = .retlw k) ∧
  (∀ (x : BitVec 1) (k : Byte), decode (0b0011110#7 ++ x ++ k) = .sublw k) ∧
  (∀ (x : BitVec 1) (k : Byte), decode (0b0011111#7 ++ x ++ k) = .addlw k) ∧
  decode 0x0064#16 = .invalidC0 0x64#7 ∧ decode 0x0062#16 = .invalidC0 0x62#7

/-- Words written out from the spec's encodings and examples, one or more for each family, one for each INVALID row. -/
def Obligations.SpecWordsDecodeAsWritten : Prop :=
  decode 0x0000#16 = .nop ∧ decode 0x0008#16 = .ret ∧ decode 0x0009#16 = .retfie ∧ decode 0x0063#16 = .sleep ∧
  decode 0x0001#16 = .invalidC0 0x01#7 ∧
  decode 0x00A0#16 = .movwf 0x20#7 ∧ decode 0x07A0#16 = .addwf 0x20#7 .f ∧ decode 0x0220#16 = .subwf 0x20#7 .w ∧
  decode 0x0BA0#16 = .decfsz 0x20#7 .f ∧ decode 0x11A0#16 = .bcf 0x20#7 3#3 ∧ decode 0x1DA0#16 = .btfss 0x20#7 3#3 ∧
  decode 0x2456#16 = .call 0x456#11 ∧ decode 0x2FFF#16 = .goto 0x7FF#11 ∧
  decode 0x342A#16 = .retlw 0x2A#8 ∧ decode 0x3C08#16 = .sublw 0x08#8 ∧ decode 0x3B7F#16 = .invalidL ∧
  decode 0x4000#16 = .invalidClass1 ∧ decode 0xBFFF#16 = .invalidClass2 ∧ decode 0xFFFF#16 = .invalidClass3

/-! ### Stepping. -/

/-- A step at a live state whose image holds a word at `PC` is the execution of the instruction that word decodes to, at that
very state, and that instruction is well-formed (R100, R246 (b)): step adds nothing around exec. -/
def Obligations.StepRunsTheDecodedInstruction : Prop :=
  ∀ (s : State) (x : Word), s.Live → s.program.lookup s.pc = some x →
    (decode x).wellFormed = true ∧ dispatch x s = exec (decode x) s ∧ step s = exec (decode x) s

/-- A word the embedder places at `PC` (R246 (a)) is the one the very next step runs; every other address of the image, and
every other part of the state, is as before. -/
def Obligations.PlacedWordRunsNext : Prop :=
  ∀ (s : State) (x : Word), s.Live →
    let t := s.withFetchWord 16 x.toNat
    step t = exec (decode x) t ∧
    (∀ a, a ≠ s.pc → t.program.lookup a = s.program.lookup a) ∧
    t.config = s.config ∧ t.w = s.w ∧ t.pc = s.pc ∧ t.stack = s.stack ∧ t.running = s.running ∧ t.rf = s.rf ∧
    t.signal = s.signal

/-- Where the spec gives no step there is none: no word in the image at `PC` (I13: stuck), or the run is over (R249, I12). -/
def Obligations.NoStepWhereTheSpecGivesNone : Prop :=
  (∀ s : State, s.Live → s.program.lookup s.pc = none → step s = .fault .noProgramWord) ∧
  (∀ s : State, s.running = false → step s = .refused .runEnded) ∧
  (∀ s : State, s.signal ≠ .ok → step s = .refused .runEnded)

/-- R40 and R42: the codes the ports carry. -/
def Obligations.OutcomePortsCarryTheirCodes : Prop :=
  ∀ s t : State,
    (t.signal = .ok → ports s (.next t) = some ⟨0, none, none, t.running, t.pc⟩) ∧
    (t.signal = .standby → ports s (.next t) = some ⟨1, none, none, t.running, t.pc⟩) ∧
    (∀ k, t.signal = .exit k → ports s (.next t) = some ⟨2, some k, none, t.running, t.pc⟩)

/-! ### Faults. -/

/-- At every state every instruction either raises exactly the fault R221 gives it there, or completes; it is never refused. -/
def Obligations.FaultsAreExactlyTheSpecified : Prop :=
  ∀ (i : Instr) (s : State),
    (∀ k, exec i s = .fault k ↔ faultOf i s = some k) ∧
    (faultOf i s = none → ∃ t, exec i s = .next t) ∧
    (∀ r, exec i s ≠ .refused r)

/-- A faulting dispatch changes no state, and the ports report FAULT (code 3), the kind's own code of R221
(InvalidInstructionClass 1, InvalidInstruction 2, StackFull 3, StackEmpty 4), and `running` and `PC` as they were (R221, R222,
R224). That `stateAfter` hands the old state back is the model's reading of the fault outcome (log entry 4). -/
def Obligations.FaultingDispatchReportsAndKeepsState : Prop :=
  ∀ (x : Word) (s : State) (k : Fault), dispatch x s = .fault k →
    stateAfter s (dispatch x s) = s ∧
    ((k = .invalidInstructionClass ∧ ports s (dispatch x s) = some ⟨3, none, some 1, s.running, s.pc⟩) ∨
      (k = .invalidInstruction ∧ ports s (dispatch x s) = some ⟨3, none, some 2, s.running, s.pc⟩) ∨
      (k = .stackFull ∧ ports s (dispatch x s) = some ⟨3, none, some 3, s.running, s.pc⟩) ∨
      (k = .stackEmpty ∧ ports s (dispatch x s) = some ⟨3, none, some 4, s.running, s.pc⟩))

/-- R101 and R82 (the selector's reading is the spec's decision D1): a word with any bit of 15:14 set raises
InvalidInstructionClass at every state, the three INVALID_CLASS rows do so, and no other word does. -/
def Obligations.InvalidClassWordsFault : Prop :=
  (∀ (x : Word) (s : State), dispatch x s = .fault .invalidInstructionClass ↔ 3 < x.toNat / 2 ^ 12) ∧
  (∀ s : State, exec .invalidClass1 s = .fault .invalidInstructionClass ∧
    exec .invalidClass2 s = .fault .invalidInstructionClass ∧ exec .invalidClass3 s = .fault .invalidInstructionClass)

/-- R126: the class-0 words with sub-opcode 0, `d = 0`, `f` not 0x08, 0x09 or 0x63 and `f[4:0] != 0` decode to INVALID_C0, and
INVALID_C0 raises InvalidInstruction at every state. -/
def Obligations.InvalidClassZeroWordsFault : Prop :=
  (∀ (x : Word) (f : RegAddr), decode x = .invalidC0 f ↔
    x = 0b000000000#9 ++ f ∧ f ≠ 0x08#7 ∧ f ≠ 0x09#7 ∧ f ≠ 0x63#7 ∧ f.toNat % 32 ≠ 0) ∧
  (∀ (f : RegAddr) (s : State), exec (.invalidC0 f) s = .fault .invalidInstruction ∧ stateAfter s (exec (.invalidC0 f) s) = s)

/-- R198 (the spec's decision D14): the words 0x3B00 to 0x3BFF, and no others, decode to INVALID_L, which raises
InvalidInstruction at every state. -/
def Obligations.InvalidLiteralWordsFault : Prop :=
  (∀ x : Word, decode x = .invalidL ↔ 0x3B00 ≤ x.toNat ∧ x.toNat ≤ 0x3BFF) ∧
  (∀ s : State, exec .invalidL s = .fault .invalidInstruction)

/-! ### Class 0, sub-opcode 0. -/

/-- R125. -/
def Obligations.NopOnlyAdvances : Prop :=
  (∀ x : BitVec 2, decode (0b000000000#9 ++ x ++ 0b00000#5) = .nop) ∧
  ∀ s : State, exec .nop s = .next { s with pc := (s.pc + 1) % 2 ^ s.config.pcWidth, signal := .ok }

/-- R121: `F[f]` becomes `W`, flags only as bits of that byte; no other register changes. -/
def Obligations.MovwfStoresW : Prop :=
  ∀ (f : RegAddr) (s : State), s.Inv →
    decode (0b000000001#9 ++ f) = .movwf f ∧
    ∃ t, exec (.movwf f) s = .next t ∧ t.w = s.w ∧ Advanced 1 s t ∧
      ∀ a, t.memRead a = if a = f then s.w else s.memRead a

/-- R122: RETURN pops `PC` and changes nothing else; on an empty stack it raises StackEmpty (the spec's decision D12). -/
def Obligations.ReturnPopsPc : Prop :=
  decode 0x0008#16 = .ret ∧
  (∀ (s : State) (e : Nat) (rest : List Nat), s.Inv → s.stack = rest ++ [e] →
    exec .ret s = .next { s with pc := e, stack := rest, signal := .ok }) ∧
  (∀ s : State, s.stack = [] → exec .ret s = .fault .stackEmpty)

/-- R123: RETFIE pops `PC` and sets GIE, leaving the other seven bits of INTCON and every other register; on an empty stack it
raises StackEmpty (the spec's decision D13). -/
def Obligations.RetfiePopsPcAndSetsGie : Prop :=
  decode 0x0009#16 = .retfie ∧
  (∀ (s : State) (e : Nat) (rest : List Nat), s.Inv → s.stack = rest ++ [e] →
    ∃ t, exec .retfie s = .next t ∧ t.pc = e ∧ t.stack = rest ∧ t.w = s.w ∧ t.running = s.running ∧ t.signal = .ok ∧
      t.config = s.config ∧ t.program = s.program ∧
      (∀ a, a ≠ s.config.intconAddr → t.memRead a = s.memRead a) ∧
      ∀ i : Fin 8, t.intcon.getLsbD i.val = if i = s.config.gieBit then true else s.intcon.getLsbD i.val) ∧
  (∀ s : State, s.stack = [] → exec .retfie s = .fault .stackEmpty)

/-- R124: SLEEP advances by 1 and signals STANDBY; everything else, `running` included, is unchanged (the spec's
decision D17). -/
def Obligations.SleepAdvancesAndSignalsStandby : Prop :=
  decode 0x0063#16 = .sleep ∧
  ∀ s : State, exec .sleep s = .next { s with pc := (s.pc + 1) % 2 ^ s.config.pcWidth, signal := .standby }

/-! ### Class 0, sub-opcodes 1 to 0xF. -/

/-- R127 and R128. -/
def Obligations.ClearsWriteZeroAndZ : Prop :=
  (∀ (f : RegAddr) (s : State), s.Inv →
    decode (0b000000011#9 ++ f) = .clrf f ∧
    ∃ t, exec (.clrf f) s = .next t ∧ AluEffect f .f 0#8 (zOnly 0#8) 1 s t) ∧
  (∀ (x : BitVec 7) (s : State), s.Inv →
    decode (0b000000010#9 ++ x) = .clrw ∧
    ∃ t, exec .clrw s = .next t ∧ AluEffect x .w 0#8 (zOnly 0#8) 1 s t)

/-- R129, the flags in the closed form it gives. -/
def Obligations.SubwfResultFlagsFrame : Prop :=
  ∀ (f : RegAddr) (d : Dest) (s : State), s.Inv →
    decode (0x02#8 ++ d.bit ++ f) = .subwf f d ∧
    ∃ t, exec (.subwf f d) s = .next t ∧
      AluEffect f d (s.memRead f - s.w) (subWrites (s.memRead f) s.w) 1 s t

/-- R134, the flags in the closed form it gives. -/
def Obligations.AddwfResultFlagsFrame : Prop :=
  ∀ (f : RegAddr) (d : Dest) (s : State), s.Inv →
    decode (0x07#8 ++ d.bit ++ f) = .addwf f d ∧
    ∃ t, exec (.addwf f d) s = .next t ∧
      AluEffect f d (s.memRead f + s.w) (addWrites (s.memRead f) s.w) 1 s t

/-- R130 and R137: Z only; C and DC are left alone even where the result wraps. -/
def Obligations.DecfIncfResultZFrame : Prop :=
  ∀ (f : RegAddr) (d : Dest) (s : State), s.Inv →
    (decode (0x03#8 ++ d.bit ++ f) = .decf f d ∧
      ∃ t, exec (.decf f d) s = .next t ∧ AluEffect f d (s.memRead f - 1#8) (zOnly (s.memRead f - 1#8)) 1 s t) ∧
    (decode (0x0A#8 ++ d.bit ++ f) = .incf f d ∧
      ∃ t, exec (.incf f d) s = .next t ∧ AluEffect f d (s.memRead f + 1#8) (zOnly (s.memRead f + 1#8)) 1 s t)

/-- R131, R132, R133. -/
def Obligations.LogicWithWResultZFrame : Prop :=
  ∀ (f : RegAddr) (d : Dest) (s : State), s.Inv →
    (decode (0x04#8 ++ d.bit ++ f) = .iorwf f d ∧
      ∃ t, exec (.iorwf f d) s = .next t ∧ AluEffect f d (s.memRead f ||| s.w) (zOnly (s.memRead f ||| s.w)) 1 s t) ∧
    (decode (0x05#8 ++ d.bit ++ f) = .andwf f d ∧
      ∃ t, exec (.andwf f d) s = .next t ∧ AluEffect f d (s.memRead f &&& s.w) (zOnly (s.memRead f &&& s.w)) 1 s t) ∧
    (decode (0x06#8 ++ d.bit ++ f) = .xorwf f d ∧
      ∃ t, exec (.xorwf f d) s = .next t ∧ AluEffect f d (s.memRead f ^^^ s.w) (zOnly (s.memRead f ^^^ s.w)) 1 s t)

/-- R135 and R136. -/
def Obligations.MovfComfResultZFrame : Prop :=
  ∀ (f : RegAddr) (d : Dest) (s : State), s.Inv →
    (decode (0x08#8 ++ d.bit ++ f) = .movf f d ∧
      ∃ t, exec (.movf f d) s = .next t ∧ AluEffect f d (s.memRead f) (zOnly (s.memRead f)) 1 s t) ∧
    (decode (0x09#8 ++ d.bit ++ f) = .comf f d ∧
      ∃ t, exec (.comf f d) s = .next t ∧ AluEffect f d (~~~(s.memRead f)) (zOnly (~~~(s.memRead f))) 1 s t)

/-- R138 and R142: the skip is taken exactly when the truncated result is 0, and no flag is written. -/
def Obligations.SkipIfZeroResultAndAdvance : Prop :=
  ∀ (f : RegAddr) (d : Dest) (s : State), s.Inv →
    (decode (0x0B#8 ++ d.bit ++ f) = .decfsz f d ∧
      ∃ t, exec (.decfsz f d) s = .next t ∧
        AluEffect f d (s.memRead f - 1#8) {} (if s.memRead f = 1#8 then 2 else 1) s t) ∧
    (decode (0x0F#8 ++ d.bit ++ f) = .incfsz f d ∧
      ∃ t, exec (.incfsz f d) s = .next t ∧
        AluEffect f d (s.memRead f + 1#8) {} (if s.memRead f = 0xFF#8 then 2 else 1) s t)

/-- R139 and R140 (the spec's decisions D24 and D26), with the parameter of I17 at its default: the old C enters, the bit
rotated out becomes C, Z follows the result. -/
def Obligations.RotatesThroughCarry : Prop :=
  ∀ (f : RegAddr) (d : Dest) (s : State), s.Inv → s.config.rotateCarryLiteral = false →
    (decode (0x0C#8 ++ d.bit ++ f) = .rlf f d ∧
      ∃ t, exec (.rlf f d) s = .next t ∧
        let r : Byte := (s.memRead f).extractLsb' 0 7 ++ BitVec.ofBool s.flagC
        AluEffect f d r (rotateWrites ((s.memRead f).getLsbD 7) r) 1 s t) ∧
    (decode (0x0D#8 ++ d.bit ++ f) = .rrf f d ∧
      ∃ t, exec (.rrf f d) s = .next t ∧
        let r : Byte := BitVec.ofBool s.flagC ++ (s.memRead f).extractLsb' 1 7
        AluEffect f d r (rotateWrites ((s.memRead f).getLsbD 0) r) 1 s t)

/-- The alternative `ROTATE_CARRY_LITERAL` of 93_implementation_defined.md: only the carry-out differs (1 for RLF exactly when
`regVal` is 0 or 1; always 1 for RRF). -/
def Obligations.RotatesWithLiteralCarry : Prop :=
  ∀ (f : RegAddr) (d : Dest) (s : State), s.Inv → s.config.rotateCarryLiteral = true →
    (∃ t, exec (.rlf f d) s = .next t ∧
      let r : Byte := (s.memRead f).extractLsb' 0 7 ++ BitVec.ofBool s.flagC
      AluEffect f d r (rotateWrites (decide ((s.memRead f).toNat ≤ 1)) r) 1 s t) ∧
    (∃ t, exec (.rrf f d) s = .next t ∧
      let r : Byte := BitVec.ofBool s.flagC ++ (s.memRead f).extractLsb' 1 7
      AluEffect f d r (rotateWrites true r) 1 s t)

/-- R143 (derived by the spec), (b) and (c) for a register that is not the status byte, which holds C itself: nine RLFs, nine
RRFs, RLF then RRF and RRF then RLF with `d = 1` restore the register and C, while eight RLFs do so only at the two pairs of
95_test_vectors.md section 2.11; and (a) for both rotates, at every register. -/
def Obligations.RotateLaws : Prop :=
  ∀ (f : RegAddr) (s : State), s.Inv → s.config.rotateCarryLiteral = false →
    (f ≠ s.config.statusAddr →
      (∃ t, execTimes (.rlf f .f) 9 s = some t ∧ t.memRead f = s.memRead f ∧ t.flagC = s.flagC) ∧
      (∃ t, execTimes (.rrf f .f) 9 s = some t ∧ t.memRead f = s.memRead f ∧ t.flagC = s.flagC) ∧
      (∃ t, execTimes (.rlf f .f) 8 s = some t ∧
        (t.memRead f = s.memRead f ∧ t.flagC = s.flagC ↔
          s.memRead f = 0x00#8 ∧ s.flagC = false ∨ s.memRead f = 0xFF#8 ∧ s.flagC = true)) ∧
      (∃ t u, exec (.rlf f .f) s = .next t ∧ exec (.rrf f .f) t = .next u ∧ u.memRead f = s.memRead f ∧ u.flagC = s.flagC) ∧
      (∃ t u, exec (.rrf f .f) s = .next t ∧ exec (.rlf f .f) t = .next u ∧ u.memRead f = s.memRead f ∧ u.flagC = s.flagC)) ∧
    (∃ t, exec (.rlf f .w) s = .next t ∧
      (BitVec.ofBool t.flagC ++ t.w : BitVec 9) = (BitVec.ofBool s.flagC ++ s.memRead f : BitVec 9).rotateLeft 1) ∧
    (∃ t, exec (.rrf f .w) s = .next t ∧
      (BitVec.ofBool t.flagC ++ t.w : BitVec 9) = (BitVec.ofBool s.flagC ++ s.memRead f : BitVec 9).rotateRight 1)

/-- R141. -/
def Obligations.SwapfSwapsNibbles : Prop :=
  ∀ (f : RegAddr) (d : Dest) (s : State), s.Inv →
    decode (0x0E#8 ++ d.bit ++ f) = .swapf f d ∧
    ∃ t, exec (.swapf f d) s = .next t ∧
      AluEffect f d ((s.memRead f).extractLsb' 0 4 ++ (s.memRead f).extractLsb' 4 4) {} 1 s t

/-! ### Class 1. -/

/-- R171 and R172: one bit of `F[f]`; every other bit of every register, and `W`, as before. -/
def Obligations.BcfBsfWriteOneBit : Prop :=
  ∀ (f : RegAddr) (b : BitVec 3) (s : State), s.Inv →
    (decode (0b000100#6 ++ b ++ f) = .bcf f b ∧
      ∃ t, exec (.bcf f b) s = .next t ∧ t.w = s.w ∧ Advanced 1 s t ∧
        ∀ (a : RegAddr) (i : Fin 8),
          (t.memRead a).getLsbD i.val = if a = f ∧ i.val = b.toNat then false else (s.memRead a).getLsbD i.val) ∧
    (decode (0b000101#6 ++ b ++ f) = .bsf f b ∧
      ∃ t, exec (.bsf f b) s = .next t ∧ t.w = s.w ∧ Advanced 1 s t ∧
        ∀ (a : RegAddr) (i : Fin 8),
          (t.memRead a).getLsbD i.val = if a = f ∧ i.val = b.toNat then true else (s.memRead a).getLsbD i.val)

/-- R173 and R174: only `PC` changes, by 2 exactly when the tested bit is 0 (BTFSC) or 1 (BTFSS). -/
def Obligations.BtfscBtfssOnlySkip : Prop :=
  ∀ (f : RegAddr) (b : BitVec 3) (s : State),
    (decode (0b000110#6 ++ b ++ f) = .btfsc f b ∧
      exec (.btfsc f b) s =
        .next { s with
          pc := (s.pc + if (s.memRead f).getLsbD b.toNat = false then 2 else 1) % 2 ^ s.config.pcWidth, signal := .ok }) ∧
    (decode (0b000111#6 ++ b ++ f) = .btfss f b ∧
      exec (.btfss f b) s =
        .next { s with
          pc := (s.pc + if (s.memRead f).getLsbD b.toNat = true then 2 else 1) % 2 ^ s.config.pcWidth, signal := .ok })

/-! ### Class 2. -/

/-- R181: CALL pushes `PC + 1` and goes to its absolute target; on a full stack it raises StackFull. -/
def Obligations.CallPushesAndJumps : Prop :=
  ∀ (k : BitVec 11) (s : State), s.Inv →
    decode (0b00100#5 ++ k) = .call k ∧
    (s.stack.length < s.config.stackDepth →
      exec (.call k) s = .next { s with
        pc := k.toNat, stack := s.stack ++ [(s.pc + 1) % 2 ^ s.config.pcWidth], signal := .ok }) ∧
    (s.stack.length = s.config.stackDepth → exec (.call k) s = .fault .stackFull ∧ stateAfter s (exec (.call k) s) = s)

/-- R182: GOTO sets `PC` to its absolute target and nothing else. -/
def Obligations.GotoJumps : Prop :=
  ∀ (k : BitVec 11) (s : State), s.Inv →
    decode (0b00101#5 ++ k) = .goto k ∧
    exec (.goto k) s = .next { s with pc := k.toNat, signal := .ok }

/-- R183 (derived by the spec): the return that meets CALL's entry on top sets `PC` to `P + 1` and leaves the stack as it was
before the CALL, whatever else happened in between. -/
def Obligations.CallAndReturnPair : Prop :=
  ∀ (k : BitVec 11) (s : State), s.Inv → s.stack.length < s.config.stackDepth →
    ∃ t, exec (.call k) s = .next t ∧ t.pc = k.toNat ∧
      ∀ u : State, u.config = s.config → u.stack = t.stack →
        ∀ i : Instr, (i = .ret ∨ i = .retfie ∨ ∃ l, i = .retlw l) →
          ∃ v, exec i u = .next v ∧ v.pc = (s.pc + 1) % 2 ^ s.config.pcWidth ∧ v.stack = s.stack

/-! ### Class 3. -/

/-- R191: no flag. -/
def Obligations.MovlwLoadsW : Prop :=
  (∀ (x : BitVec 2) (k : Byte), decode (0b001100#6 ++ x ++ k) = .movlw k) ∧
  ∀ (k : Byte) (s : State),
    exec (.movlw k) s = .next { s with w := k, pc := (s.pc + 1) % 2 ^ s.config.pcWidth, signal := .ok }

/-- R192: with entries on the stack `W` is loaded and `PC` popped; with none the program exits with code `k`, changing
`running` only. -/
def Obligations.RetlwReturnsOrExits : Prop :=
  (∀ (x : BitVec 2) (k : Byte), decode (0b001101#6 ++ x ++ k) = .retlw k) ∧
  (∀ (k : Byte) (s : State) (e : Nat) (rest : List Nat), s.Inv → s.stack = rest ++ [e] →
    exec (.retlw k) s = .next { s with w := k, pc := e, stack := rest, signal := .ok }) ∧
  (∀ (k : Byte) (s : State), s.stack = [] →
    exec (.retlw k) s = .next { s with running := false, signal := .exit k })

/-- R193: literal minus `W`, the flags in the closed form it gives. -/
def Obligations.SublwResultFlagsFrame : Prop :=
  (∀ (x : BitVec 1) (k : Byte), decode (0b0011110#7 ++ x ++ k) = .sublw k) ∧
  ∀ (k : Byte) (s : State), s.Inv →
    ∃ t, exec (.sublw k) s = .next t ∧ LiteralEffect (k - s.w) (subWrites k s.w) s t

/-- R194, the flags in the closed form it gives. -/
def Obligations.AddlwResultFlagsFrame : Prop :=
  (∀ (x : BitVec 1) (k : Byte), decode (0b0011111#7 ++ x ++ k) = .addlw k) ∧
  ∀ (k : Byte) (s : State), s.Inv →
    ∃ t, exec (.addlw k) s = .next t ∧ LiteralEffect (k + s.w) (addWrites k s.w) s t

/-- R195, R196, R197. -/
def Obligations.LiteralLogicResultZFrame : Prop :=
  ∀ (k : Byte) (s : State), s.Inv →
    (decode (0x38#8 ++ k) = .iorlw k ∧
      ∃ t, exec (.iorlw k) s = .next t ∧ LiteralEffect (k ||| s.w) (zOnly (k ||| s.w)) s t) ∧
    (decode (0x39#8 ++ k) = .andlw k ∧
      ∃ t, exec (.andlw k) s = .next t ∧ LiteralEffect (k &&& s.w) (zOnly (k &&& s.w)) s t) ∧
    (decode (0x3A#8 ++ k) = .xorlw k ∧
      ∃ t, exec (.xorlw k) s = .next t ∧ LiteralEffect (k ^^^ s.w) (zOnly (k ^^^ s.w)) s t)

/-! ### The flag logic. -/

/-- R106: `SetFlag` changes one bit of the status byte and nothing else. -/
def Obligations.SetFlagChangesOneBit : Prop :=
  ∀ (s : State) (b : Fin 8) (v : Bool), s.Inv →
    (∀ i : Fin 8, (s.setFlag b v).status.getLsbD i.val = if i = b then v else s.status.getLsbD i.val) ∧
    (∀ a, a ≠ s.config.statusAddr → (s.setFlag b v).memRead a = s.memRead a) ∧
    ∃ m, s.setFlag b v = { s with rf := m }

/-- R111 (derived by the spec): the carry vector of R107 gives the carry out of bit 7 and of bit 3, for all operands. -/
def Obligations.AdditionCarryVectorClosedForm : Prop :=
  ∀ x y : Byte,
    ((addVector x y (sum16 x y)).getLsbD 8 = true ↔ x.toNat + y.toNat > 255) ∧
    ((addVector x y (sum16 x y)).getLsbD 4 = true ↔ x.toNat % 16 + y.toNat % 16 > 15)

/-- R112 (derived by the spec): the carry vector of R108 gives no-borrow, except 0 at a zero subtrahend (for DC, at a zero low
nibble). -/
def Obligations.SubtractionCarryVectorClosedForm : Prop :=
  ∀ x y : Byte,
    ((subVector x y (diff16 x y)).getLsbD 8 = true ↔ y.toNat ≠ 0 ∧ x.toNat ≥ y.toNat) ∧
    ((subVector x y (diff16 x y)).getLsbD 4 = true ↔ y.toNat % 16 ≠ 0 ∧ x.toNat % 16 ≥ y.toNat % 16)

/-! ### The call stack as a unit. -/

/-- R211, R212 and R214: the predicates, and one push and one pop, with their failures. -/
def Obligations.PushPopAndPredicates : Prop :=
  ∀ s : State,
    (s.stackIsEmpty = true ↔ s.stack.length = 0) ∧ (s.stackIsFull = true ↔ s.stack.length = s.config.stackDepth) ∧
    (∀ v, (s.stack.length = s.config.stackDepth → s.push v = none) ∧
      (s.stack.length ≠ s.config.stackDepth → s.push v = some { s with stack := s.stack ++ [v] })) ∧
    (s.stack = [] → s.pop = none) ∧
    (∀ e rest, s.stack = rest ++ [e] → s.pop = some (e, { s with stack := rest }))

/-- R216 (derived by the spec), (a) to (d). -/
def Obligations.CallStackLaws : Prop :=
  (∀ (s : State) (vs : List Nat), s.stack = [] → vs.length = s.config.stackDepth →
    ∃ t, s.pushAll vs = some t ∧ (∀ v, t.push v = none) ∧
      State.popMany s.config.stackDepth t = some (vs.reverse, s) ∧ s.pop = none) ∧
  (∀ (s : State) (a b : Nat), s.stack.length + 2 ≤ s.config.stackDepth →
    ∃ t u v, s.push a = some t ∧ t.push b = some u ∧ u.pop = some (b, v) ∧ v.pop = some (a, s)) ∧
  (∀ (s t : State) (v : Nat), s.push v = some t → t.pop = some (v, s))

/-! ### The register file. -/

/-- R51: a read returns the last value written; a write changes only the byte at its address; and it keeps the canonical
form. -/
def Obligations.RegisterFileIsPlainStorage : Prop :=
  ∀ (s : State) (a : RegAddr) (v : Byte), s.Inv →
    (s.memWrite a v).memRead a = v ∧
    (∀ b, b ≠ a → (s.memWrite a v).memRead b = s.memRead b) ∧
    (s.memWrite a v).Inv ∧
    (∀ b u, b ≠ a → (s.memWrite a v).memWrite b u = (s.memWrite b u).memWrite a v)

/-- The canonical form makes register files comparable: two that read alike at all 128 addresses are the same data. -/
def Obligations.RegisterFilesReadingAlikeAreEqual : Prop :=
  ∀ m m' : Memory, m.wf = true → m'.wf = true → (∀ a : RegAddr, m.read a.toNat = m'.read a.toNat) → m = m'

/-- R9: every content of the 128 registers is the content of a canonical register file, so `RF_INIT` ranges over all of them.
-/
def Obligations.EveryRegisterContentIsRepresented : Prop :=
  ∀ g : RegAddr → Byte, ∃ m : Memory, m.wf = true ∧ ∀ a : RegAddr, m.read a.toNat = g a

/-! ### Session creation and the invariant. -/

/-- R241 to R245 (the spec's decisions D6 to D10): a session starts with `W` and the registers as drawn, `PC` 0, an empty
stack and `running` true, and is legal and live, for every draw and every legal choice of the parameters. -/
def Obligations.SessionStartsAsSpecified : Prop :=
  ∀ (c : Config) (w0 : Byte) (rf0 : Memory) (image : Program),
    let s := State.create c w0 rf0 image
    s.w = w0 ∧ (∀ a : RegAddr, s.memRead a = rf0.read a.toNat) ∧ s.pc = 0 ∧ s.stack = [] ∧ s.running = true ∧
    (c.Legal → rf0.wf = true → image.wf = true → s.Inv ∧ s.Live)

/-- The model's reset state is legal and live, has the default parameters, and starts at 0 with an empty stack. That `W` and
the registers are zero in it is the model's choice (log entry 1) and not stated. -/
def Obligations.ResetStateIsLegal : Prop :=
  State.reset.Inv ∧ State.reset.Live ∧ State.reset.config = Config.default ∧ State.reset.pc = 0 ∧ State.reset.stack = []

/-- Every step keeps a legal state legal: canonical stores, a bounded stack, bounded `PC` and return addresses, `running` false
exactly after EXIT (R25, R32, R33). -/
def Obligations.StepKeepsLegalStates : Prop :=
  ∀ s t : State, s.Inv → step s = .next t → t.Inv

/-- R248: a run from a live legal state ends by EXIT with `running` false, by STANDBY with `running` true, or faulted at a
state whose word at `PC` raises that fault kind of R221. The one other way it stops is no end of R248 and the model's choice
(DESIGN CHOICE, log entry 7, following I13 and D28): it is stuck, by the name noProgramWord, where the image holds no word at
`PC`. It is never refused. -/
def Obligations.RunsEndAsSpecified : Prop :=
  ∀ (n : Nat) (s : State), s.Inv → s.Live → (runFor n s).AsSpecified

/-- R232: after SLEEP no step is taken by itself; if the embedder dispatches again, the word at the advanced `PC` runs, at the
state SLEEP left. -/
def Obligations.StandbyResumesAtTheNextWord : Prop :=
  ∀ s : State, s.running = true →
    ∃ t, exec .sleep s = .next t ∧ step t = .refused .runEnded ∧ t.resume = { t with signal := .ok } ∧
      t.resume.pc = (s.pc + 1) % 2 ^ s.config.pcWidth ∧
      ∀ x, s.program.lookup t.pc = some x → step t.resume = exec (decode x) t.resume

/-! ### Whole-machine rules. -/

/-- R24 (derived by the spec): the table of how each instruction sets `PC`, faults and the RETLW exit included. -/
def Obligations.NextPcFollowsTheTable : Prop :=
  ∀ (i : Instr) (s : State), s.Inv → (stateAfter s (exec i s)).pc = nextPc i s

/-- R30, R31 and R114: a bit of the status byte that is no flag the instruction writes changes only by a data write to the
status byte itself; INTCON, and so GIE, changes only by RETFIE or by a data write to it. -/
def Obligations.ControlBytesChangeOnlyAsTabled : Prop :=
  ∀ (i : Instr) (s t : State), s.Inv → exec i s = .next t →
    (dataDest i ≠ some s.config.statusAddr →
      ∀ b : Fin 8, (flagsWritten i).spares s.config b → t.status.getLsbD b.val = s.status.getLsbD b.val) ∧
    (i ≠ .retfie → dataDest i ≠ some s.config.intconAddr → t.intcon = s.intcon ∧ t.gie = s.gie)

/-- R59: an instruction's result depends on no register outside the reads the access list gives. Two states that differ in
their register files only, and agree at the addresses read, lead to states that agree in everything but the registers not
written. -/
def Obligations.ResultsDependOnlyOnRegistersRead : Prop :=
  ∀ (i : Instr) (s t : State) (m : Memory), s.Inv → m.wf = true → exec i s = .next t →
    (∀ a : RegAddr, RfAccess.read a ∈ rfAccesses s.config i → s.memRead a = m.read a.toNat) →
    ∃ t', exec i { s with rf := m } = .next t' ∧ { t' with rf := t.rf } = t ∧
      ∀ a : RegAddr, t'.memRead a = if RfAccess.write a ∈ rfAccesses s.config i then t.memRead a else m.read a.toNat

/-- R20 and R33: only CALL pushes, only RETURN, RETFIE and RETLW pop, and no other instruction touches the stack. -/
def Obligations.StackChangesOnlyByCallAndReturns : Prop :=
  ∀ (i : Instr) (s t : State), exec i s = .next t →
    ((∃ k, i = .call k) ∧ t.stack = s.stack ++ [(s.pc + 1) % 2 ^ s.config.pcWidth]) ∨
    ((i = .ret ∨ i = .retfie ∨ ∃ k, i = .retlw k) ∧ t.stack = s.stack.dropLast) ∨
    ((∀ k, i ≠ .call k) ∧ i ≠ .ret ∧ i ≠ .retfie ∧ (∀ k, i ≠ .retlw k) ∧ t.stack = s.stack)

/-- R20: W changes only by the instructions that may write it, and the RETLW exit leaves it; parameters and image never
change. -/
def Obligations.WConfigAndImageFrame : Prop :=
  ∀ (i : Instr) (s t : State), exec i s = .next t →
    (writesW i = false → t.w = s.w) ∧ (Exits i s → t.w = s.w) ∧ t.config = s.config ∧ t.program = s.program

/-- R32: only RETLW on an empty stack clears `running`, nothing sets it, and the core never reads it: with another value of
`running` the dispatch does the same. The embedder stops once it is false. -/
def Obligations.RunningIsClearedByExitAndNeverRead : Prop :=
  ∀ (i : Instr) (s : State) (b : Bool),
    (∀ t, exec i s = .next t → Exits i s →
      t.running = false ∧ exec i { s with running := b } = .next t) ∧
    (∀ t, exec i s = .next t → ¬ Exits i s →
      t.running = s.running ∧ exec i { s with running := b } = .next { t with running := b }) ∧
    (∀ k, exec i s = .fault k → exec i { s with running := b } = .fault k) ∧
    (s.running = false → step s = .refused .runEnded)
end

