-- ==== Sys2Proof/Laws/Decode.lean ====
section
/-! SUPPORT. The four formats of R72 to R75 read back field by field; what the decoder makes of each; and every word whose
selector is at most 3 is one of them. -/

namespace Sys2Proof

/-! ### Fields of each format. -/

@[simp] theorem fieldSel_formatA (op : BitVec 4) (d : Dest) (f : RegAddr) : fieldSel (formatA op d f) = 0#4 := by
  apply BitVec.eq_of_getLsbD_eq
  intro i hi
  simp only [fieldSel, formatA, BitVec.getLsbD_extractLsb', BitVec.getLsbD_append]
  interval_cases i <;> simp

@[simp] theorem fieldOp_formatA (op : BitVec 4) (d : Dest) (f : RegAddr) : fieldOp (formatA op d f) = op := by
  apply BitVec.eq_of_getLsbD_eq
  intro i hi
  simp only [fieldOp, formatA, BitVec.getLsbD_extractLsb', BitVec.getLsbD_append]
  interval_cases i <;> simp

@[simp] theorem fieldF_formatA (op : BitVec 4) (d : Dest) (f : RegAddr) : fieldF (formatA op d f) = f := by
  apply BitVec.eq_of_getLsbD_eq
  intro i hi
  simp only [fieldF, formatA, BitVec.getLsbD_extractLsb', BitVec.getLsbD_append]
  interval_cases i <;> simp

@[simp] theorem fieldD_formatA (op : BitVec 4) (d : Dest) (f : RegAddr) : fieldD (formatA op d f) = d := by
  have h : (formatA op d f).getLsbD 7 = d.bit.getLsbD 0 := by
    simp only [formatA, BitVec.getLsbD_append]; simp
  rw [fieldD, h]
  cases d <;> rfl

@[simp] theorem fieldSel_formatB (op : BitVec 2) (b : BitVec 3) (f : RegAddr) : fieldSel (formatB op b f) = 1#4 := by
  apply BitVec.eq_of_getLsbD_eq
  intro i hi
  simp only [fieldSel, formatB, BitVec.getLsbD_extractLsb', BitVec.getLsbD_append]
  interval_cases i <;> simp

@[simp] theorem fieldBitOp_formatB (op : BitVec 2) (b : BitVec 3) (f : RegAddr) : fieldBitOp (formatB op b f) = op := by
  apply BitVec.eq_of_getLsbD_eq
  intro i hi
  simp only [fieldBitOp, formatB, BitVec.getLsbD_extractLsb', BitVec.getLsbD_append]
  interval_cases i <;> simp

@[simp] theorem fieldB_formatB (op : BitVec 2) (b : BitVec 3) (f : RegAddr) : fieldB (formatB op b f) = b := by
  apply BitVec.eq_of_getLsbD_eq
  intro i hi
  simp only [fieldB, formatB, BitVec.getLsbD_extractLsb', BitVec.getLsbD_append]
  interval_cases i <;> simp

@[simp] theorem fieldF_formatB (op : BitVec 2) (b : BitVec 3) (f : RegAddr) : fieldF (formatB op b f) = f := by
  apply BitVec.eq_of_getLsbD_eq
  intro i hi
  simp only [fieldF, formatB, BitVec.getLsbD_extractLsb', BitVec.getLsbD_append]
  interval_cases i <;> simp

@[simp] theorem fieldSel_formatC (g : BitVec 1) (k : BitVec 11) : fieldSel (formatC g k) = 2#4 := by
  apply BitVec.eq_of_getLsbD_eq
  intro i hi
  simp only [fieldSel, formatC, BitVec.getLsbD_extractLsb', BitVec.getLsbD_append]
  interval_cases i <;> simp

@[simp] theorem fieldK11_formatC (g : BitVec 1) (k : BitVec 11) : fieldK11 (formatC g k) = k := by
  apply BitVec.eq_of_getLsbD_eq
  intro i hi
  simp only [fieldK11, formatC, BitVec.getLsbD_extractLsb', BitVec.getLsbD_append]
  interval_cases i <;> simp

@[simp] theorem formBit_formatC (g : BitVec 1) (k : BitVec 11) : (formatC g k).getLsbD 11 = g.getLsbD 0 := by
  simp only [formatC, BitVec.getLsbD_append]; simp

@[simp] theorem fieldSel_formatL (op : BitVec 4) (k : Byte) : fieldSel (formatL op k) = 3#4 := by
  apply BitVec.eq_of_getLsbD_eq
  intro i hi
  simp only [fieldSel, formatL, BitVec.getLsbD_extractLsb', BitVec.getLsbD_append]
  interval_cases i <;> simp

@[simp] theorem fieldOp_formatL (op : BitVec 4) (k : Byte) : fieldOp (formatL op k) = op := by
  apply BitVec.eq_of_getLsbD_eq
  intro i hi
  simp only [fieldOp, formatL, BitVec.getLsbD_extractLsb', BitVec.getLsbD_append]
  interval_cases i <;> simp

@[simp] theorem fieldK8_formatL (op : BitVec 4) (k : Byte) : fieldK8 (formatL op k) = k := by
  apply BitVec.eq_of_getLsbD_eq
  intro i hi
  simp only [fieldK8, formatL, BitVec.getLsbD_extractLsb', BitVec.getLsbD_append]
  interval_cases i <;> simp

/-! ### What the decoder makes of each format. -/

theorem decode_formatA (op : BitVec 4) (d : Dest) (f : RegAddr) : decode (formatA op d f) = decodeClass0 op f d := by
  unfold decode; simp

theorem decode_formatB (op : BitVec 2) (b : BitVec 3) (f : RegAddr) : decode (formatB op b f) = decodeClass1 op f b := by
  unfold decode; simp

theorem decode_formatC (g : BitVec 1) (k : BitVec 11) : decode (formatC g k) = decodeClass2 (g.getLsbD 0) k := by
  unfold decode; simp only [fieldSel_formatC, fieldK11_formatC, formBit_formatC]; rfl

theorem decode_formatL (op : BitVec 4) (k : Byte) : decode (formatL op k) = decodeClass3 op k := by
  unfold decode; simp

/-! ### Every word. -/

theorem dest_bit (x : Word) : (fieldD x).bit = BitVec.ofBool (x.getLsbD 7) := by
  unfold fieldD; cases x.getLsbD 7 <;> rfl

/-- A word is its selector and the fields of format A. -/
theorem word_fieldsA (x : Word) : x = fieldSel x ++ fieldOp x ++ (fieldD x).bit ++ fieldF x := by
  rw [dest_bit]
  apply BitVec.eq_of_getLsbD_eq
  intro i hi
  simp only [fieldSel, fieldOp, fieldF, BitVec.getLsbD_extractLsb', BitVec.getLsbD_append]
  interval_cases i <;> simp

/-- A word is its selector and the fields of format B. -/
theorem word_fieldsB (x : Word) : x = fieldSel x ++ fieldBitOp x ++ fieldB x ++ fieldF x := by
  apply BitVec.eq_of_getLsbD_eq
  intro i hi
  simp only [fieldSel, fieldBitOp, fieldB, fieldF, BitVec.getLsbD_extractLsb', BitVec.getLsbD_append]
  interval_cases i <;> simp

/-- A word is its selector, its form bit and the target of format C. -/
theorem word_fieldsC (x : Word) : x = fieldSel x ++ x.extractLsb' 11 1 ++ fieldK11 x := by
  apply BitVec.eq_of_getLsbD_eq
  intro i hi
  simp only [fieldSel, fieldK11, BitVec.getLsbD_extractLsb', BitVec.getLsbD_append]
  interval_cases i <;> simp

/-- A word is its selector and the fields of format L. -/
theorem word_fieldsL (x : Word) : x = fieldSel x ++ fieldOp x ++ fieldK8 x := by
  apply BitVec.eq_of_getLsbD_eq
  intro i hi
  simp only [fieldSel, fieldOp, fieldK8, BitVec.getLsbD_extractLsb', BitVec.getLsbD_append]
  interval_cases i <;> simp

/-- A word is its top two bits and its 14 significant bits. -/
theorem word_top (x : Word) : x = x.extractLsb' 14 2 ++ x.extractLsb' 0 14 := by
  apply BitVec.eq_of_getLsbD_eq
  intro i hi
  simp only [BitVec.getLsbD_extractLsb', BitVec.getLsbD_append]
  interval_cases i <;> simp

/-- The selector of a word with clear top bits is at most 3. -/
theorem fieldSel_of_top {x : Word} (h : x.extractLsb' 14 2 = 0#2) :
    fieldSel x = 0#4 ∨ fieldSel x = 1#4 ∨ fieldSel x = 2#4 ∨ fieldSel x = 3#4 := by
  have e : fieldSel x = x.extractLsb' 14 2 ++ x.extractLsb' 12 2 := by
    apply BitVec.eq_of_getLsbD_eq
    intro i hi
    simp only [fieldSel, BitVec.getLsbD_extractLsb', BitVec.getLsbD_append]
    interval_cases i <;> simp
  have all : ∀ c : BitVec 2, (0#2 ++ c : BitVec 4) = 0#4 ∨ (0#2 ++ c : BitVec 4) = 1#4 ∨ (0#2 ++ c : BitVec 4) = 2#4 ∨
      (0#2 ++ c : BitVec 4) = 3#4 := by decide
  rw [e, h]
  exact all _

/-- Every word is in one of the four formats, or its top two bits are not clear. -/
theorem word_formats (x : Word) :
    (∃ op d f, x = formatA op d f) ∨ (∃ op b f, x = formatB op b f) ∨ (∃ g k, x = formatC g k) ∨ (∃ op k, x = formatL op k) ∨
    ∃ (t : BitVec 2) (y : BitVec 14), t ≠ 0#2 ∧ x = t ++ y := by
  by_cases h : x.extractLsb' 14 2 = 0#2
  · rcases fieldSel_of_top h with e | e | e | e
    · exact .inl ⟨_, _, _, by have := word_fieldsA x; rwa [e] at this⟩
    · exact .inr (.inl ⟨_, _, _, by have := word_fieldsB x; rwa [e] at this⟩)
    · exact .inr (.inr (.inl ⟨_, _, by have := word_fieldsC x; rwa [e] at this⟩))
    · exact .inr (.inr (.inr (.inl ⟨_, _, by have := word_fieldsL x; rwa [e] at this⟩)))
  · exact .inr (.inr (.inr (.inr ⟨_, _, h, word_top x⟩)))

/-- The selector is the word's top four bits. -/
theorem fieldSel_toNat (x : Word) : (fieldSel x).toNat = x.toNat / 2 ^ 12 := by
  have := x.isLt
  simp only [fieldSel, BitVec.extractLsb'_toNat, Nat.shiftRight_eq_div_pow]
  omega

/-- A word whose top two bits are not clear decodes to its INVALID_CLASS row. -/
theorem decode_top {t : BitVec 2} (ht : t ≠ 0#2) (y : BitVec 14) : decode (t ++ y : BitVec 16) = decodeInvalidClass t := by
  have h1 : fieldSel (t ++ y : BitVec 16) = t ++ y.extractLsb' 12 2 := by
    apply BitVec.eq_of_getLsbD_eq
    intro i hi
    simp only [fieldSel, BitVec.getLsbD_extractLsb', BitVec.getLsbD_append]
    interval_cases i <;> simp
  have h2 : (t ++ y : BitVec 16).extractLsb' 14 2 = t := by
    apply BitVec.eq_of_getLsbD_eq
    intro i hi
    simp only [BitVec.getLsbD_extractLsb', BitVec.getLsbD_append]
    interval_cases i <;> simp
  have all : ∀ (t c : BitVec 2), t ≠ 0#2 → 3 < (t ++ c : BitVec 4).toNat := by decide
  unfold decode
  simp only [h1, h2, all t _ ht, if_true]

end Sys2Proof
end

