-- ==== Sys2Proof/Laws/Memory.lean ====
section
/-! SUPPORT. The laws of the two stores: a read after a write, and every operation keeps the canonical form. -/

namespace Sys2Proof.Machine

/-! ### The register file. -/

@[simp] theorem Memory.read_nil (a : Nat) : Memory.read [] a = 0#8 := rfl

theorem Memory.read_cons (k : Nat) (v : Byte) (m : Memory) (a : Nat) :
    Memory.read ((k, v) :: m) a = if k = a then v else Memory.read m a := rfl

theorem Memory.wfFrom_cons (lo k : Nat) (v : Byte) (m : Memory) :
    Memory.wfFrom lo ((k, v) :: m) = true ↔ lo ≤ k ∧ k < 128 ∧ v ≠ 0#8 ∧ Memory.wfFrom (k + 1) m = true := by
  by_cases hv : v = 0#8 <;> simp [Memory.wfFrom, Memory.unlisted, and_assoc, hv]

theorem Memory.wfFrom_mono {lo lo' : Nat} (h : lo' ≤ lo) : ∀ {m : Memory}, Memory.wfFrom lo m = true → Memory.wfFrom lo' m = true
  | [], _ => rfl
  | (k, v) :: m, hm => by
    rw [Memory.wfFrom_cons] at hm ⊢
    exact ⟨by omega, hm.2⟩

/-- Below the first address a canonical list has no entry. -/
theorem Memory.read_below {m : Memory} {lo a : Nat} (hm : Memory.wfFrom lo m = true) (ha : a < lo) : Memory.read m a = 0#8 := by
  induction m generalizing lo with
  | nil => rfl
  | cons c m ih =>
    obtain ⟨k, v⟩ := c
    rw [Memory.wfFrom_cons] at hm
    have hk : k ≠ a := by omega
    simp only [Memory.read_cons, hk, if_false]
    exact ih hm.2.2.2 (by omega)

/-- Outside the data space a canonical list has no entry. -/
theorem Memory.read_outside {m : Memory} {lo a : Nat} (hm : Memory.wfFrom lo m = true) (ha : 128 ≤ a) : Memory.read m a = 0#8 := by
  induction m generalizing lo with
  | nil => rfl
  | cons c m ih =>
    obtain ⟨k, v⟩ := c
    rw [Memory.wfFrom_cons] at hm
    have hk : k ≠ a := by omega
    simp only [Memory.read_cons, hk, if_false]
    exact ih hm.2.2.2

theorem Memory.wfFrom_cell {lo a : Nat} {v : Byte} {m : Memory} (hlo : lo ≤ a) (ha : a < 128)
    (hm : Memory.wfFrom (a + 1) m = true) : Memory.wfFrom lo (Memory.cell a v m) = true := by
  unfold Memory.cell
  split
  · exact Memory.wfFrom_mono (by omega) hm
  · rename_i hv
    exact (Memory.wfFrom_cons ..).2 ⟨hlo, ha, hv, hm⟩

theorem Memory.wfFrom_write {m : Memory} {lo a : Nat} {v : Byte} (hm : Memory.wfFrom lo m = true) (hlo : lo ≤ a) (ha : a < 128) :
    Memory.wfFrom lo (Memory.write m a v) = true := by
  induction m generalizing lo with
  | nil => exact Memory.wfFrom_cell hlo ha rfl
  | cons c m ih =>
    obtain ⟨k, u⟩ := c
    have hm' := (Memory.wfFrom_cons ..).1 hm
    unfold Memory.write
    split
    · exact Memory.wfFrom_cell hlo ha ((Memory.wfFrom_cons ..).2 ⟨by omega, hm'.2⟩)
    · split
      · rename_i h; subst h; exact Memory.wfFrom_cell hlo ha hm'.2.2.2
      · exact (Memory.wfFrom_cons ..).2 ⟨hm'.1, hm'.2.1, hm'.2.2.1, ih hm'.2.2.2 (by omega)⟩

/-- A write keeps the canonical form. -/
theorem Memory.wf_write {m : Memory} {a : Nat} {v : Byte} (hm : m.wf = true) (ha : a < 128) : (m.write a v).wf = true :=
  Memory.wfFrom_write hm (Nat.zero_le a) ha

/-- The one operation that reads after a write, on canonical lists. -/
theorem Memory.read_write_from {m : Memory} {lo : Nat} (hm : Memory.wfFrom lo m = true) (a b : Nat) (v : Byte) :
    Memory.read (Memory.write m a v) b = if a = b then v else Memory.read m b := by
  induction m generalizing lo with
  | nil =>
    simp only [Memory.write, Memory.cell, Memory.unlisted]
    by_cases hv : v = 0#8
    · simp [hv]
    · simp [hv, Memory.read_cons]
  | cons c m ih =>
    obtain ⟨k, u⟩ := c
    have hm' := (Memory.wfFrom_cons ..).1 hm
    have ihm := ih hm'.2.2.2
    by_cases hv : v = 0#8
    · subst hv
      unfold Memory.write Memory.cell
      split
      · rename_i hak
        simp only [Memory.unlisted, if_true]
        by_cases hab : a = b
        · subst hab; simp [Memory.read_below (lo := k) ((Memory.wfFrom_cons ..).2 ⟨le_refl k, hm'.2⟩) hak]
        · simp [hab]
      · split
        · rename_i hak; subst hak
          simp only [Memory.unlisted, if_true, Memory.read_cons]
          by_cases hab : a = b
          · subst hab; simp [Memory.read_below hm'.2.2.2 (Nat.lt_succ_self a)]
          · simp [hab]
        · rename_i h1 h2
          simp only [Memory.read_cons, ihm]
          by_cases hkb : k = b
          · have : a ≠ b := by omega
            simp [hkb, this]
          · simp [hkb]
    · unfold Memory.write Memory.cell
      split
      · simp [Memory.unlisted, hv, Memory.read_cons]
      · split
        · rename_i hak; subst hak
          simp only [Memory.unlisted, hv, if_false, Memory.read_cons]
          split <;> simp_all
        · rename_i h1 h2
          simp only [Memory.read_cons, ihm]
          by_cases hkb : k = b
          · have : a ≠ b := by omega
            simp [hkb, this]
          · simp [hkb]

theorem Memory.read_write {m : Memory} (hm : m.wf = true) (a b : Nat) (v : Byte) :
    (m.write a v).read b = if a = b then v else m.read b :=
  Memory.read_write_from hm a b v

/-! ### The program image. -/

theorem Program.lookup_cons (k : Nat) (x : Word) (p : Program) (a : Nat) :
    Program.lookup ((k, x) :: p) a = if k = a then some x else Program.lookup p a := rfl

theorem Program.wfFrom_cons (lo k : Nat) (x : Word) (p : Program) :
    Program.wfFrom lo ((k, x) :: p) = true ↔ lo ≤ k ∧ Program.wfFrom (k + 1) p = true := by
  simp [Program.wfFrom]

/-- The word placed is the word found; every other address is as before. -/
theorem Program.lookup_place (p : Program) (a b : Nat) (x : Word) :
    (p.place a x).lookup b = if a = b then some x else p.lookup b := by
  induction p with
  | nil => simp [Program.place, Program.lookup]
  | cons c p ih =>
    obtain ⟨k, y⟩ := c
    unfold Program.place
    split
    · simp [Program.lookup_cons]
    · split
      · rename_i hak; subst hak
        simp only [Program.lookup_cons]
        split <;> simp_all
      · rename_i h1 h2
        simp only [Program.lookup_cons, ih]
        by_cases hkb : k = b
        · have : a ≠ b := by omega
          simp [hkb, this]
        · simp [hkb]

theorem Program.wfFrom_place {p : Program} {lo a : Nat} {x : Word} (hp : Program.wfFrom lo p = true) (hlo : lo ≤ a) :
    Program.wfFrom lo (p.place a x) = true := by
  induction p generalizing lo with
  | nil => simp [Program.place, Program.wfFrom, hlo]
  | cons c p ih =>
    obtain ⟨k, y⟩ := c
    have hp' := (Program.wfFrom_cons ..).1 hp
    unfold Program.place
    split
    · exact (Program.wfFrom_cons ..).2 ⟨hlo, (Program.wfFrom_cons ..).2 ⟨by omega, hp'.2⟩⟩
    · split
      · rename_i h; subst h; exact (Program.wfFrom_cons ..).2 ⟨hlo, hp'.2⟩
      · exact (Program.wfFrom_cons ..).2 ⟨hp'.1, ih hp'.2 (by omega)⟩

/-- Placing a word keeps the canonical form. -/
theorem Program.wf_place {p : Program} {a : Nat} {x : Word} (hp : p.wf = true) : (p.place a x).wf = true :=
  Program.wfFrom_place hp (Nat.zero_le a)

end Sys2Proof.Machine
end

