-- ==== Sys2Proof/Laws/State.lean ====
section
/-! SUPPORT. One lemma per field per update of the state, true by rfl, so that no later proof unfolds a record update; and the
fields of the updates that reach them by cases (writeDest, resume). -/

namespace Sys2Proof.Machine

variable (s : State)

/-! ### setW -/

@[simp] theorem State.setW_config (v : Byte) : (s.setW v).config = s.config := rfl
@[simp] theorem State.setW_w (v : Byte) : (s.setW v).w = v := rfl
@[simp] theorem State.setW_pc (v : Byte) : (s.setW v).pc = s.pc := rfl
@[simp] theorem State.setW_stack (v : Byte) : (s.setW v).stack = s.stack := rfl
@[simp] theorem State.setW_running (v : Byte) : (s.setW v).running = s.running := rfl
@[simp] theorem State.setW_rf (v : Byte) : (s.setW v).rf = s.rf := rfl
@[simp] theorem State.setW_signal (v : Byte) : (s.setW v).signal = s.signal := rfl
@[simp] theorem State.setW_program (v : Byte) : (s.setW v).program = s.program := rfl

/-! ### memWrite -/

@[simp] theorem State.memWrite_config (a : RegAddr) (v : Byte) : (s.memWrite a v).config = s.config := rfl
@[simp] theorem State.memWrite_w (a : RegAddr) (v : Byte) : (s.memWrite a v).w = s.w := rfl
@[simp] theorem State.memWrite_pc (a : RegAddr) (v : Byte) : (s.memWrite a v).pc = s.pc := rfl
@[simp] theorem State.memWrite_stack (a : RegAddr) (v : Byte) : (s.memWrite a v).stack = s.stack := rfl
@[simp] theorem State.memWrite_running (a : RegAddr) (v : Byte) : (s.memWrite a v).running = s.running := rfl
@[simp] theorem State.memWrite_rf (a : RegAddr) (v : Byte) : (s.memWrite a v).rf = s.rf.write a.toNat v := rfl
@[simp] theorem State.memWrite_signal (a : RegAddr) (v : Byte) : (s.memWrite a v).signal = s.signal := rfl
@[simp] theorem State.memWrite_program (a : RegAddr) (v : Byte) : (s.memWrite a v).program = s.program := rfl

/-! ### setPc -/

@[simp] theorem State.setPc_config (t : Nat) : (s.setPc t).config = s.config := rfl
@[simp] theorem State.setPc_w (t : Nat) : (s.setPc t).w = s.w := rfl
@[simp] theorem State.setPc_pc (t : Nat) : (s.setPc t).pc = t % 2 ^ s.config.pcWidth := rfl
@[simp] theorem State.setPc_stack (t : Nat) : (s.setPc t).stack = s.stack := rfl
@[simp] theorem State.setPc_running (t : Nat) : (s.setPc t).running = s.running := rfl
@[simp] theorem State.setPc_rf (t : Nat) : (s.setPc t).rf = s.rf := rfl
@[simp] theorem State.setPc_signal (t : Nat) : (s.setPc t).signal = s.signal := rfl
@[simp] theorem State.setPc_program (t : Nat) : (s.setPc t).program = s.program := rfl

/-! ### adv -/

@[simp] theorem State.adv_config (n : Nat) : (s.adv n).config = s.config := rfl
@[simp] theorem State.adv_w (n : Nat) : (s.adv n).w = s.w := rfl
@[simp] theorem State.adv_pc (n : Nat) : (s.adv n).pc = (s.pc + n) % 2 ^ s.config.pcWidth := rfl
@[simp] theorem State.adv_stack (n : Nat) : (s.adv n).stack = s.stack := rfl
@[simp] theorem State.adv_running (n : Nat) : (s.adv n).running = s.running := rfl
@[simp] theorem State.adv_rf (n : Nat) : (s.adv n).rf = s.rf := rfl
@[simp] theorem State.adv_signal (n : Nat) : (s.adv n).signal = s.signal := rfl
@[simp] theorem State.adv_program (n : Nat) : (s.adv n).program = s.program := rfl

/-! ### advSkip -/

@[simp] theorem State.advSkip_config (c : Bool) : (s.advSkip c).config = s.config := rfl
@[simp] theorem State.advSkip_w (c : Bool) : (s.advSkip c).w = s.w := rfl
@[simp] theorem State.advSkip_pc (c : Bool) : (s.advSkip c).pc = (s.pc + if c then 2 else 1) % 2 ^ s.config.pcWidth := rfl
@[simp] theorem State.advSkip_stack (c : Bool) : (s.advSkip c).stack = s.stack := rfl
@[simp] theorem State.advSkip_running (c : Bool) : (s.advSkip c).running = s.running := rfl
@[simp] theorem State.advSkip_rf (c : Bool) : (s.advSkip c).rf = s.rf := rfl
@[simp] theorem State.advSkip_signal (c : Bool) : (s.advSkip c).signal = s.signal := rfl
@[simp] theorem State.advSkip_program (c : Bool) : (s.advSkip c).program = s.program := rfl

/-! ### stopRunning -/

@[simp] theorem State.stopRunning_config : (s.stopRunning).config = s.config := rfl
@[simp] theorem State.stopRunning_w : (s.stopRunning).w = s.w := rfl
@[simp] theorem State.stopRunning_pc : (s.stopRunning).pc = s.pc := rfl
@[simp] theorem State.stopRunning_stack : (s.stopRunning).stack = s.stack := rfl
@[simp] theorem State.stopRunning_running : (s.stopRunning).running = false := rfl
@[simp] theorem State.stopRunning_rf : (s.stopRunning).rf = s.rf := rfl
@[simp] theorem State.stopRunning_signal : (s.stopRunning).signal = s.signal := rfl
@[simp] theorem State.stopRunning_program : (s.stopRunning).program = s.program := rfl

/-! ### clearStack -/

@[simp] theorem State.clearStack_config : (s.clearStack).config = s.config := rfl
@[simp] theorem State.clearStack_w : (s.clearStack).w = s.w := rfl
@[simp] theorem State.clearStack_pc : (s.clearStack).pc = s.pc := rfl
@[simp] theorem State.clearStack_stack : (s.clearStack).stack = [] := rfl
@[simp] theorem State.clearStack_running : (s.clearStack).running = s.running := rfl
@[simp] theorem State.clearStack_rf : (s.clearStack).rf = s.rf := rfl
@[simp] theorem State.clearStack_signal : (s.clearStack).signal = s.signal := rfl
@[simp] theorem State.clearStack_program : (s.clearStack).program = s.program := rfl

/-! ### setSignal -/

@[simp] theorem State.setSignal_config (g : Signal) : (s.setSignal g).config = s.config := rfl
@[simp] theorem State.setSignal_w (g : Signal) : (s.setSignal g).w = s.w := rfl
@[simp] theorem State.setSignal_pc (g : Signal) : (s.setSignal g).pc = s.pc := rfl
@[simp] theorem State.setSignal_stack (g : Signal) : (s.setSignal g).stack = s.stack := rfl
@[simp] theorem State.setSignal_running (g : Signal) : (s.setSignal g).running = s.running := rfl
@[simp] theorem State.setSignal_rf (g : Signal) : (s.setSignal g).rf = s.rf := rfl
@[simp] theorem State.setSignal_signal (g : Signal) : (s.setSignal g).signal = g := rfl
@[simp] theorem State.setSignal_program (g : Signal) : (s.setSignal g).program = s.program := rfl

/-! ### setFlag -/

@[simp] theorem State.setFlag_config (b : Fin 8) (v : Bool) : (s.setFlag b v).config = s.config := rfl
@[simp] theorem State.setFlag_w (b : Fin 8) (v : Bool) : (s.setFlag b v).w = s.w := rfl
@[simp] theorem State.setFlag_pc (b : Fin 8) (v : Bool) : (s.setFlag b v).pc = s.pc := rfl
@[simp] theorem State.setFlag_stack (b : Fin 8) (v : Bool) : (s.setFlag b v).stack = s.stack := rfl
@[simp] theorem State.setFlag_running (b : Fin 8) (v : Bool) : (s.setFlag b v).running = s.running := rfl
@[simp] theorem State.setFlag_signal (b : Fin 8) (v : Bool) : (s.setFlag b v).signal = s.signal := rfl
@[simp] theorem State.setFlag_program (b : Fin 8) (v : Bool) : (s.setFlag b v).program = s.program := rfl

/-! ### setZ -/

@[simp] theorem State.setZ_config (r : Word) : (s.setZ r).config = s.config := rfl
@[simp] theorem State.setZ_w (r : Word) : (s.setZ r).w = s.w := rfl
@[simp] theorem State.setZ_pc (r : Word) : (s.setZ r).pc = s.pc := rfl
@[simp] theorem State.setZ_stack (r : Word) : (s.setZ r).stack = s.stack := rfl
@[simp] theorem State.setZ_running (r : Word) : (s.setZ r).running = s.running := rfl
@[simp] theorem State.setZ_signal (r : Word) : (s.setZ r).signal = s.signal := rfl
@[simp] theorem State.setZ_program (r : Word) : (s.setZ r).program = s.program := rfl

/-! ### setCarries -/

@[simp] theorem State.setCarries_config (cv : Word) : (s.setCarries cv).config = s.config := rfl
@[simp] theorem State.setCarries_w (cv : Word) : (s.setCarries cv).w = s.w := rfl
@[simp] theorem State.setCarries_pc (cv : Word) : (s.setCarries cv).pc = s.pc := rfl
@[simp] theorem State.setCarries_stack (cv : Word) : (s.setCarries cv).stack = s.stack := rfl
@[simp] theorem State.setCarries_running (cv : Word) : (s.setCarries cv).running = s.running := rfl
@[simp] theorem State.setCarries_signal (cv : Word) : (s.setCarries cv).signal = s.signal := rfl
@[simp] theorem State.setCarries_program (cv : Word) : (s.setCarries cv).program = s.program := rfl

/-! ### addFlags -/

@[simp] theorem State.addFlags_config (x y : Byte) (r : Word) : (s.addFlags x y r).config = s.config := rfl
@[simp] theorem State.addFlags_w (x y : Byte) (r : Word) : (s.addFlags x y r).w = s.w := rfl
@[simp] theorem State.addFlags_pc (x y : Byte) (r : Word) : (s.addFlags x y r).pc = s.pc := rfl
@[simp] theorem State.addFlags_stack (x y : Byte) (r : Word) : (s.addFlags x y r).stack = s.stack := rfl
@[simp] theorem State.addFlags_running (x y : Byte) (r : Word) : (s.addFlags x y r).running = s.running := rfl
@[simp] theorem State.addFlags_signal (x y : Byte) (r : Word) : (s.addFlags x y r).signal = s.signal := rfl
@[simp] theorem State.addFlags_program (x y : Byte) (r : Word) : (s.addFlags x y r).program = s.program := rfl

/-! ### subFlags -/

@[simp] theorem State.subFlags_config (x y : Byte) (r : Word) : (s.subFlags x y r).config = s.config := rfl
@[simp] theorem State.subFlags_w (x y : Byte) (r : Word) : (s.subFlags x y r).w = s.w := rfl
@[simp] theorem State.subFlags_pc (x y : Byte) (r : Word) : (s.subFlags x y r).pc = s.pc := rfl
@[simp] theorem State.subFlags_stack (x y : Byte) (r : Word) : (s.subFlags x y r).stack = s.stack := rfl
@[simp] theorem State.subFlags_running (x y : Byte) (r : Word) : (s.subFlags x y r).running = s.running := rfl
@[simp] theorem State.subFlags_signal (x y : Byte) (r : Word) : (s.subFlags x y r).signal = s.signal := rfl
@[simp] theorem State.subFlags_program (x y : Byte) (r : Word) : (s.subFlags x y r).program = s.program := rfl

/-! ### setGie -/

@[simp] theorem State.setGie_config : (s.setGie).config = s.config := rfl
@[simp] theorem State.setGie_w : (s.setGie).w = s.w := rfl
@[simp] theorem State.setGie_pc : (s.setGie).pc = s.pc := rfl
@[simp] theorem State.setGie_stack : (s.setGie).stack = s.stack := rfl
@[simp] theorem State.setGie_running : (s.setGie).running = s.running := rfl
@[simp] theorem State.setGie_signal : (s.setGie).signal = s.signal := rfl
@[simp] theorem State.setGie_program : (s.setGie).program = s.program := rfl

/-! ### placeAtPc -/

@[simp] theorem State.placeAtPc_config (x : Word) : (s.placeAtPc x).config = s.config := rfl
@[simp] theorem State.placeAtPc_w (x : Word) : (s.placeAtPc x).w = s.w := rfl
@[simp] theorem State.placeAtPc_pc (x : Word) : (s.placeAtPc x).pc = s.pc := rfl
@[simp] theorem State.placeAtPc_stack (x : Word) : (s.placeAtPc x).stack = s.stack := rfl
@[simp] theorem State.placeAtPc_running (x : Word) : (s.placeAtPc x).running = s.running := rfl
@[simp] theorem State.placeAtPc_rf (x : Word) : (s.placeAtPc x).rf = s.rf := rfl
@[simp] theorem State.placeAtPc_signal (x : Word) : (s.placeAtPc x).signal = s.signal := rfl
@[simp] theorem State.placeAtPc_program (x : Word) : (s.placeAtPc x).program = s.program.place s.pc x := rfl

/-! ### writeDest -/

@[simp] theorem State.writeDest_config (f : RegAddr) (d : Dest) (v : Byte) : (s.writeDest f d v).config = s.config := by
  cases d <;> rfl
@[simp] theorem State.writeDest_w (f : RegAddr) (d : Dest) (v : Byte) :
    (s.writeDest f d v).w = if d = .w then v else s.w := by cases d <;> rfl
@[simp] theorem State.writeDest_pc (f : RegAddr) (d : Dest) (v : Byte) : (s.writeDest f d v).pc = s.pc := by
  cases d <;> rfl
@[simp] theorem State.writeDest_stack (f : RegAddr) (d : Dest) (v : Byte) : (s.writeDest f d v).stack = s.stack := by
  cases d <;> rfl
@[simp] theorem State.writeDest_running (f : RegAddr) (d : Dest) (v : Byte) : (s.writeDest f d v).running = s.running := by
  cases d <;> rfl
@[simp] theorem State.writeDest_w_rf (f : RegAddr) (v : Byte) : (s.writeDest f .w v).rf = s.rf := rfl
@[simp] theorem State.writeDest_signal (f : RegAddr) (d : Dest) (v : Byte) : (s.writeDest f d v).signal = s.signal := by
  cases d <;> rfl
@[simp] theorem State.writeDest_program (f : RegAddr) (d : Dest) (v : Byte) : (s.writeDest f d v).program = s.program := by
  cases d <;> rfl

/-! ### resume -/

@[simp] theorem State.resume_config : s.resume.config = s.config := by
  unfold State.resume; split <;> rfl
@[simp] theorem State.resume_w : s.resume.w = s.w := by
  unfold State.resume; split <;> rfl
@[simp] theorem State.resume_pc : s.resume.pc = s.pc := by
  unfold State.resume; split <;> rfl
@[simp] theorem State.resume_stack : s.resume.stack = s.stack := by
  unfold State.resume; split <;> rfl
@[simp] theorem State.resume_running : s.resume.running = s.running := by
  unfold State.resume; split <;> rfl
@[simp] theorem State.resume_rf : s.resume.rf = s.rf := by
  unfold State.resume; split <;> rfl
@[simp] theorem State.resume_program : s.resume.program = s.program := by
  unfold State.resume; split <;> rfl

end Sys2Proof.Machine
end

