-- ==== Sys2Proof/Laws/Ops.lean ====
section
/-! SUPPORT. One lemma per shared operation that says once everything it can do, for proofs to cite instead of unfolding it. -/

namespace Sys2Proof.Machine

/-! ### The register-file port. -/

theorem State.memRead_memWrite {s : State} (h : s.rf.wf = true) (a b : RegAddr) (v : Byte) :
    (s.memWrite a v).memRead b = if a = b then v else s.memRead b := by
  simp only [State.memRead, State.memWrite_rf, Memory.read_write h, BitVec.toNat_inj]

theorem State.wf_memWrite {s : State} (h : s.rf.wf = true) (a : RegAddr) (v : Byte) : (s.memWrite a v).rf.wf = true :=
  Memory.wf_write h a.isLt

/-- A read sees the register file only. -/
theorem State.memRead_eq_of_rf {s t : State} (h : t.rf = s.rf) (a : RegAddr) : t.memRead a = s.memRead a := by
  simp only [State.memRead, h]

@[simp] theorem State.memRead_setW (s : State) (v : Byte) (a : RegAddr) : (s.setW v).memRead a = s.memRead a := rfl
@[simp] theorem State.memRead_setPc (s : State) (n : Nat) (a : RegAddr) : (s.setPc n).memRead a = s.memRead a := rfl
@[simp] theorem State.memRead_adv (s : State) (n : Nat) (a : RegAddr) : (s.adv n).memRead a = s.memRead a := rfl
@[simp] theorem State.memRead_advSkip (s : State) (c : Bool) (a : RegAddr) : (s.advSkip c).memRead a = s.memRead a := rfl
@[simp] theorem State.memRead_setSignal (s : State) (g : Signal) (a : RegAddr) : (s.setSignal g).memRead a = s.memRead a := rfl
@[simp] theorem State.memRead_stopRunning (s : State) (a : RegAddr) : s.stopRunning.memRead a = s.memRead a := rfl

/-! ### Bits of a byte. -/

theorem getLsbD_bitMask (i j : Fin 8) : (bitMask i.val).getLsbD j.val = decide (j = i) := by
  revert i j; decide

theorem getLsbD_not8 (x : Byte) (j : Fin 8) : (not8 x).getLsbD j.val = !x.getLsbD j.val := by
  have h : (0xFF#8).getLsbD j.val = true := by revert j; decide
  rw [not8, BitVec.getLsbD_xor, h, Bool.xor_true]

theorem not8_eq (x : Byte) : not8 x = ~~~x :=
  BitVec.xor_allOnes

/-- `withBit` replaces one bit. -/
theorem getLsbD_withBit (x : Byte) (i j : Fin 8) (v : Bool) :
    (withBit x i.val v).getLsbD j.val = if j = i then v else x.getLsbD j.val := by
  have h : (bit8 v <<< i.val).getLsbD j.val = (decide (j = i) && v) := by revert i j v; decide
  rw [withBit, BitVec.getLsbD_or, BitVec.getLsbD_and, getLsbD_not8, getLsbD_bitMask, h]
  by_cases hij : j = i <;> simp [hij]

/-- Bytes that agree bit by bit are equal. -/
theorem byte_ext {x y : Byte} (h : ∀ i : Fin 8, x.getLsbD i.val = y.getLsbD i.val) : x = y :=
  BitVec.eq_of_getLsbD_eq fun i hi => h ⟨i, hi⟩

/-! ### The flag logic. -/

theorem State.memRead_setFlag {s : State} (h : s.rf.wf = true) (b : Fin 8) (v : Bool) (a : RegAddr) :
    (s.setFlag b v).memRead a = if s.config.statusAddr = a then withBit s.status b.val v else s.memRead a :=
  State.memRead_memWrite h ..

theorem State.wf_setFlag {s : State} (h : s.rf.wf = true) (b : Fin 8) (v : Bool) : (s.setFlag b v).rf.wf = true :=
  State.wf_memWrite h ..

theorem State.wf_setZ {s : State} (h : s.rf.wf = true) (r : Word) : (s.setZ r).rf.wf = true :=
  State.wf_setFlag h ..

theorem State.wf_setCarries {s : State} (h : s.rf.wf = true) (cv : Word) : (s.setCarries cv).rf.wf = true :=
  State.wf_setFlag (State.wf_setFlag h ..) ..

theorem State.wf_writeDest {s : State} (h : s.rf.wf = true) (f : RegAddr) (d : Dest) (v : Byte) :
    (s.writeDest f d v).rf.wf = true := by
  cases d
  · exact h
  · exact State.wf_memWrite h ..

theorem State.wf_setGie {s : State} (h : s.rf.wf = true) : s.setGie.rf.wf = true :=
  State.wf_memWrite h ..

theorem State.memRead_setGie {s : State} (h : s.rf.wf = true) (a : RegAddr) :
    s.setGie.memRead a = if s.config.intconAddr = a then s.intcon ||| bitMask s.config.gieBit.val else s.memRead a :=
  State.memRead_memWrite h ..

theorem State.memRead_writeDest {s : State} (h : s.rf.wf = true) (f : RegAddr) (d : Dest) (v : Byte) (a : RegAddr) :
    (s.writeDest f d v).memRead a = if d = .f ∧ a = f then v else s.memRead a := by
  cases d
  · simp [State.writeDest]
  · simp only [State.writeDest, State.memRead_memWrite h, true_and, eq_comm (a := a)]

/-- A flag write leaves every register but the status byte. -/
theorem State.memRead_setFlag_ne {s : State} (h : s.rf.wf = true) (b : Fin 8) (v : Bool) {a : RegAddr}
    (ha : a ≠ s.config.statusAddr) : (s.setFlag b v).memRead a = s.memRead a := by
  rw [State.memRead_setFlag h, if_neg (Ne.symm ha)]

/-- A flag write replaces one bit of the status byte. -/
theorem State.status_setFlag {s : State} (h : s.rf.wf = true) (b : Fin 8) (v : Bool) (i : Fin 8) :
    (s.setFlag b v).status.getLsbD i.val = if i = b then v else s.status.getLsbD i.val := by
  rw [State.status, State.setFlag_config, State.memRead_setFlag h, if_pos rfl, getLsbD_withBit]

/-! ### The call stack. -/

theorem State.push_full {s : State} (h : s.stack.length = s.config.stackDepth) (v : Nat) : s.push v = none := by
  simp [State.push, State.stackIsFull, h]

theorem State.push_room {s : State} (h : s.stack.length ≠ s.config.stackDepth) (v : Nat) :
    s.push v = some { s with stack := s.stack ++ [v] } := by
  simp [State.push, State.stackIsFull, h]

theorem State.pop_empty {s : State} (h : s.stack = []) : s.pop = none := by
  simp [State.pop, h]

theorem State.pop_concat {s : State} {e : Nat} {rest : List Nat} (h : s.stack = rest ++ [e]) :
    s.pop = some (e, { s with stack := rest }) := by
  simp [State.pop, h]

/-- A pop fails on an empty stack or takes the top entry. -/
theorem State.pop_cases (s : State) :
    (s.stack = [] ∧ s.pop = none) ∨
    ∃ e rest, s.stack = rest ++ [e] ∧ s.pop = some (e, { s with stack := rest }) := by
  rcases List.eq_nil_or_concat s.stack with h | ⟨rest, e, h⟩
  · exact .inl ⟨h, State.pop_empty h⟩
  · exact .inr ⟨e, rest, by simpa using h, State.pop_concat (by simpa using h)⟩

/-- A push fails on a full stack or adds the top entry. -/
theorem State.push_cases (s : State) (v : Nat) :
    (s.stack.length = s.config.stackDepth ∧ s.push v = none) ∨
    (s.stack.length ≠ s.config.stackDepth ∧ s.push v = some { s with stack := s.stack ++ [v] }) := by
  by_cases h : s.stack.length = s.config.stackDepth
  · exact .inl ⟨h, State.push_full h v⟩
  · exact .inr ⟨h, State.push_room h v⟩

/-! ### The 16-bit intermediate (R105). -/

theorem trunc8_zext16 (v : Byte) : trunc8 (zext16 v) = v := by
  simp [trunc8, zext16]

theorem trunc8_sum16 (x y : Byte) : trunc8 (sum16 x y) = x + y := by
  apply BitVec.eq_of_toNat_eq
  simp [trunc8, sum16, zext16]

theorem trunc8_diff16 (x y : Byte) : trunc8 (diff16 x y) = x - y := by
  apply BitVec.eq_of_toNat_eq
  simp [trunc8, diff16, zext16]
  omega

end Sys2Proof.Machine
end

