-- ==== Sys2Proof/Laws/Effects.lean ====
section
/-! SUPPORT. What the shared ends of the executors do, in the vocabulary of Sys2Proof/Safety.lean: the destination write, each
flag write on top of it, and the ends finishZ, finishSkipIfZero, finishRotate and finishLiteralZ. -/

namespace Sys2Proof.Machine

variable {s t : State} {f : RegAddr} {d : Dest} {r : Byte} {fl : FlagWrites}

theorem advanced_finish (n : Nat) (hpc : t.pc = s.pc) (hst : t.stack = s.stack) (hrun : t.running = s.running)
    (hc : t.config = s.config) (hp : t.program = s.program) : Advanced n s ((t.adv n).setSignal .ok) := by
  simp [Advanced, hpc, hst, hrun, hc, hp]

theorem Wrote.of_writeDest (h : s.rf.wf = true) : Wrote f d r {} s (s.writeDest f d r) := by
  refine ⟨by simp, fun a _ => State.memRead_writeDest h f d r a, fun i => ?_⟩
  have hs : (s.writeDest f d r).status = if d = .f ∧ f = s.config.statusAddr then r else s.status := by
    rw [State.status, State.writeDest_config, State.memRead_writeDest h]
    simp only [eq_comm (a := s.config.statusAddr), State.status]
  rw [hs]
  simp [FlagWrites.bit]

/-- One more flag: DC. -/
theorem Wrote.setDC {c z : Option Bool} (hw : Wrote f d r { dc := none, c := c, z := z } s t) (h : t.rf.wf = true)
    (hc : t.config = s.config) (hl : s.config.Legal) (v : Bool) :
    Wrote f d r { dc := some v, c := c, z := z } s (t.setFlag s.config.dcBit v) := by
  obtain ⟨hW, hA, hS⟩ := hw
  refine ⟨by simpa using hW, fun a ha => ?_, fun i => ?_⟩
  · rw [State.memRead_setFlag_ne h _ _ (by rwa [hc]), hA a ha]
  · rw [State.status_setFlag h, hS]
    have h1 := hl.2.2.1
    have h2 := hl.2.2.2.2.1
    simp only [FlagWrites.bit]
    split <;> rename_i hi
    · subst hi; simp [h2, Ne.symm h1]
    · simp

/-- One more flag: C. -/
theorem Wrote.setC {dc z : Option Bool} (hw : Wrote f d r { dc := dc, c := none, z := z } s t) (h : t.rf.wf = true)
    (hc : t.config = s.config) (hl : s.config.Legal) (v : Bool) :
    Wrote f d r { dc := dc, c := some v, z := z } s (t.setFlag s.config.cBit v) := by
  obtain ⟨hW, hA, hS⟩ := hw
  refine ⟨by simpa using hW, fun a ha => ?_, fun i => ?_⟩
  · rw [State.memRead_setFlag_ne h _ _ (by rwa [hc]), hA a ha]
  · rw [State.status_setFlag h, hS]
    have h2 := hl.2.2.2.1
    simp only [FlagWrites.bit]
    split <;> rename_i hi
    · subst hi; simp [h2]
    · simp

/-- One more flag: Z. -/
theorem Wrote.setZ {dc c : Option Bool} (hw : Wrote f d r { dc := dc, c := c, z := none } s t) (h : t.rf.wf = true)
    (hc : t.config = s.config) (v : Bool) :
    Wrote f d r { dc := dc, c := c, z := some v } s (t.setFlag s.config.zBit v) := by
  obtain ⟨hW, hA, hS⟩ := hw
  refine ⟨by simpa using hW, fun a ha => ?_, fun i => ?_⟩
  · rw [State.memRead_setFlag_ne h _ _ (by rwa [hc]), hA a ha]
  · rw [State.status_setFlag h, hS]
    simp only [FlagWrites.bit]
    split <;> rename_i hi
    · subst hi; simp
    · simp

/-- The zero test as the executors make it (R109). -/
theorem Wrote.zeroTest {dc c : Option Bool} (hw : Wrote f d r { dc := dc, c := c, z := none } s t) (h : t.rf.wf = true)
    (hc : t.config = s.config) (res : Word) :
    Wrote f d r { dc := dc, c := c, z := some (decide (trunc8 res = 0#8)) } s (t.setZ res) := by
  have e : t.setZ res = t.setFlag s.config.zBit (decide (trunc8 res = 0#8)) := by
    simp only [State.setZ, hc]; rfl
  rw [e]
  exact hw.setZ h hc _

/-- `PC` and the outcome port are no part of what was written. -/
theorem Wrote.finish (hw : Wrote f d r fl s t) (n : Nat) : Wrote f d r fl s ((t.adv n).setSignal .ok) := hw

/-- Destination, Z, advance. -/
theorem finishZ_effect (hi : s.Inv) (f : RegAddr) (d : Dest) (res : Word) :
    ∃ t, finishZ f d res s = .next t ∧ AluEffect f d (trunc8 res) (zOnly (trunc8 res)) 1 s t :=
  ⟨_, rfl, ((Wrote.of_writeDest hi.2.1).zeroTest (State.wf_writeDest hi.2.1 ..) (by simp) res).finish 1,
    advanced_finish 1 (by simp) (by simp) (by simp) (by simp) (by simp)⟩

/-- Destination, no flag, advance by 1 or 2. -/
theorem finishSkipIfZero_effect (hi : s.Inv) (f : RegAddr) (d : Dest) (res : Word) :
    ∃ t, finishSkipIfZero f d res s = .next t ∧
      AluEffect f d (trunc8 res) {} (if trunc8 res = 0#8 then 2 else 1) s t := by
  refine ⟨_, rfl, (Wrote.of_writeDest hi.2.1).finish _, ?_⟩
  simp [Advanced]

/-- Destination, C, Z, advance, at any state with legal parameters and a canonical register file; both stay so. -/
theorem finishRotate_effect_of (hl : s.config.Legal) (hw : s.rf.wf = true) (f : RegAddr) (d : Dest) (res : Word) (cout : Bool) :
    ∃ t, finishRotate f d res cout s = .next t ∧ t.rf.wf = true ∧
      AluEffect f d (trunc8 res) (rotateWrites cout (trunc8 res)) 1 s t := by
  have h1 := State.wf_writeDest hw f d (trunc8 res)
  have w1 := (Wrote.of_writeDest (f := f) (d := d) (r := trunc8 res) hw).setC h1 (by simp) hl cout
  have w2 := (w1.zeroTest (State.wf_setFlag h1 ..) (by simp) res).finish 1
  refine ⟨_, rfl, State.wf_setZ (State.wf_setFlag h1 ..) _, ?_,
    advanced_finish 1 (by simp) (by simp) (by simp) (by simp) (by simp)⟩
  rw [State.writeDest_config]
  exact w2

/-- Destination, C, Z, advance. -/
theorem finishRotate_effect (hi : s.Inv) (f : RegAddr) (d : Dest) (res : Word) (cout : Bool) :
    ∃ t, finishRotate f d res cout s = .next t ∧
      AluEffect f d (trunc8 res) (rotateWrites cout (trunc8 res)) 1 s t := by
  obtain ⟨t, h, -, he⟩ := finishRotate_effect_of hi.1 hi.2.1 f d res cout
  exact ⟨t, h, he⟩

/-- `W` and a literal result: destination, Z, advance. -/
theorem finishLiteralZ_effect (hi : s.Inv) (res : Word) :
    ∃ t, finishLiteralZ res s = .next t ∧ LiteralEffect (trunc8 res) (zOnly (trunc8 res)) s t :=
  finishZ_effect hi 0#7 .w res

/-- Destination, DC and C from a carry vector, Z, advance: the end of ADDWF, SUBWF, ADDLW and SUBLW. -/
theorem carries_effect (hi : s.Inv) (f : RegAddr) (d : Dest) (res cv : Word) :
    AluEffect f d (trunc8 res)
      { dc := some (cv.getLsbD 4), c := some (cv.getLsbD 8), z := some (decide (trunc8 res = 0#8)) } 1 s
      (((((s.writeDest f d (trunc8 res)).setCarries cv).setZ res).adv 1).setSignal .ok) := by
  have h1 := State.wf_writeDest hi.2.1 f d (trunc8 res)
  have w1 := (Wrote.of_writeDest (f := f) (d := d) (r := trunc8 res) hi.2.1).setDC h1 (by simp) hi.1 (cv.getLsbD 4)
  have h2 : ((s.writeDest f d (trunc8 res)).setFlag s.config.dcBit (cv.getLsbD 4)).rf.wf = true := State.wf_setFlag h1 ..
  have w2 := w1.setC h2 (by simp) hi.1 (cv.getLsbD 8)
  have e : (s.writeDest f d (trunc8 res)).setCarries cv =
      ((s.writeDest f d (trunc8 res)).setFlag s.config.dcBit (cv.getLsbD 4)).setFlag s.config.cBit (cv.getLsbD 8) := by
    simp [State.setCarries]
  rw [e]
  refine ⟨?_, advanced_finish 1 (by simp) (by simp) (by simp) (by simp) (by simp)⟩
  exact (w2.zeroTest (State.wf_setFlag h2 ..) (by simp) res).finish 1

end Sys2Proof.Machine
end

