-- ==== Sys2Proof/Laws/Invariant.lean ====
section
/-! SUPPORT. Legal states: bounds every legal state has, canonical lists that read alike are equal, and each shared end of the
executors answers a legal state. -/

namespace Sys2Proof.Machine

variable {s t : State}

/-! ### Bounds. -/

theorem State.mod_lt (s : State) (n : Nat) : n % 2 ^ s.config.pcWidth < 2 ^ s.config.pcWidth :=
  Nat.mod_lt _ (by positivity)

/-- An 11-bit target needs no reduction (R5: `PC_WIDTH >= 11`). -/
theorem State.Inv.target_mod (hi : s.Inv) (k : BitVec 11) : k.toNat % 2 ^ s.config.pcWidth = k.toNat := by
  apply Nat.mod_eq_of_lt
  have := k.isLt
  have h : 2 ^ 11 ≤ 2 ^ s.config.pcWidth := Nat.pow_le_pow_right (by norm_num) hi.1.1
  omega

/-- A return address needs no reduction (R33). -/
theorem State.Inv.top_mod (hi : s.Inv) {e : Nat} {rest : List Nat} (h : s.stack = rest ++ [e]) :
    e % 2 ^ s.config.pcWidth = e :=
  Nat.mod_eq_of_lt (hi.2.2.2.2.2.1 e (by simp [h]))

/-! ### Canonical lists. -/

theorem Memory.ext_from {m m' : Memory} {lo : Nat} (h : Memory.wfFrom lo m = true) (h' : Memory.wfFrom lo m' = true)
    (hr : ∀ a, a < 128 → m.read a = m'.read a) : m = m' := by
  induction m generalizing m' lo with
  | nil =>
    cases m' with
    | nil => rfl
    | cons c m' =>
      obtain ⟨k, v⟩ := c
      have hm' := (Memory.wfFrom_cons ..).1 h'
      have := hr k hm'.2.1
      simp only [Memory.read_nil, Memory.read_cons, if_true] at this
      exact absurd this.symm hm'.2.2.1
  | cons c m ih =>
    obtain ⟨k, v⟩ := c
    have hm := (Memory.wfFrom_cons ..).1 h
    cases m' with
    | nil =>
      have := hr k hm.2.1
      simp only [Memory.read_nil, Memory.read_cons, if_true] at this
      exact absurd this hm.2.2.1
    | cons c' m' =>
      obtain ⟨k', v'⟩ := c'
      have hm' := (Memory.wfFrom_cons ..).1 h'
      have hk : k = k' := by
        rcases Nat.lt_trichotomy k k' with hlt | he | hlt
        · have := hr k hm.2.1
          rw [Memory.read_below (lo := k') ((Memory.wfFrom_cons ..).2 ⟨le_refl _, hm'.2⟩) hlt, Memory.read_cons, if_pos rfl] at this
          exact absurd this hm.2.2.1
        · exact he
        · have := hr k' hm'.2.1
          rw [Memory.read_below (lo := k) ((Memory.wfFrom_cons ..).2 ⟨le_refl _, hm.2⟩) hlt, Memory.read_cons, if_pos rfl] at this
          exact absurd this.symm hm'.2.2.1
      subst hk
      have hv := hr k hm.2.1
      simp only [Memory.read_cons, if_true] at hv
      subst hv
      congr 1
      refine ih hm.2.2.2 hm'.2.2.2 fun a ha => ?_
      by_cases hak : a ≤ k
      · rw [Memory.read_below hm.2.2.2 (by omega), Memory.read_below hm'.2.2.2 (by omega)]
      · simpa [Memory.read_cons, show k ≠ a by omega] using hr a ha

/-! ### The shared ends. -/

/-- Outcome OK after changes that leave all but `W`, `PC` and the register file. -/
theorem State.Inv.finish (hi : s.Inv) (hl : s.running = true) (n : Nat) (hrf : t.rf.wf = true) (hst : t.stack = s.stack)
    (hr : t.running = s.running) (hc : t.config = s.config) (hp : t.program = s.program) :
    ((t.adv n).setSignal .ok).Inv := by
  refine ⟨?_, hrf, ?_, State.mod_lt t _, ?_, ?_, ?_⟩
  · simpa [hc] using hi.1
  · simpa [hp] using hi.2.2.1
  · simpa [hst, hc] using hi.2.2.2.2.1
  · simpa [hst, hc] using hi.2.2.2.2.2.1
  · simp [hr, hl, Signal.isExit]

theorem finishZ_inv (hi : s.Inv) (hl : s.running = true) {f : RegAddr} {d : Dest} {res : Word}
    (h : finishZ f d res s = .next t) : t.Inv := by
  cases h
  exact hi.finish hl 1 (State.wf_setZ (State.wf_writeDest hi.2.1 ..) _) (by simp) (by simp) (by simp) (by simp)

theorem finishSkipIfZero_inv (hi : s.Inv) (hl : s.running = true) {f : RegAddr} {d : Dest} {res : Word}
    (h : finishSkipIfZero f d res s = .next t) : t.Inv := by
  cases h
  exact hi.finish hl _ (State.wf_writeDest hi.2.1 ..) (by simp) (by simp) (by simp) (by simp)

theorem finishRotate_inv (hi : s.Inv) (hl : s.running = true) {f : RegAddr} {d : Dest} {res : Word} {cout : Bool}
    (h : finishRotate f d res cout s = .next t) : t.Inv := by
  cases h
  exact hi.finish hl 1 (State.wf_setZ (State.wf_setFlag (State.wf_writeDest hi.2.1 ..) ..) _)
    (by simp) (by simp) (by simp) (by simp)

theorem finishLiteralZ_inv (hi : s.Inv) (hl : s.running = true) {res : Word}
    (h : finishLiteralZ res s = .next t) : t.Inv :=
  finishZ_inv (f := 0#7) (d := .w) hi hl h

theorem carries_inv (hi : s.Inv) (hl : s.running = true) (f : RegAddr) (d : Dest) (res cv : Word) (v : Byte) :
    (((((s.writeDest f d v).setCarries cv).setZ res).adv 1).setSignal .ok).Inv :=
  hi.finish hl 1 (State.wf_setZ (State.wf_setCarries (State.wf_writeDest hi.2.1 ..) _) _)
    (by simp) (by simp) (by simp) (by simp)

end Sys2Proof.Machine
end

