-- ==== Sys2Proof/Laws/PerInstr.lean ====
section
/-! SUPPORT. The family EncodeFitsRow: the encoder's word of every instruction lies in the instruction's own match and mask row of
R88 and sets no ignored bit. One lemma per constructor. -/

namespace Sys2Proof.Laws.EncodeFitsRow

/-- The word of a well-formed instruction matches its row, and its ignored bits are zero. -/
def Statement (i : Instr) : Prop :=
  i.wellFormed = true → i.row.fits (encode i) = true ∧ encode i &&& i.ignoredBits = 0#16

/-- Format A under the mask of R88's class-0 rows. -/
theorem formatA_fits (op : BitVec 4) (d : Dest) (f : RegAddr) :
    formatA op d f &&& 0xFF00#16 = formatA op .w 0#7 := by
  apply BitVec.eq_of_getLsbD_eq
  intro i hi
  simp only [formatA, BitVec.getLsbD_and, BitVec.getLsbD_append]
  interval_cases i <;> simp [Dest.bit]

/-- Format A under the mask that keeps `d` too. -/
theorem formatA_fits_d (op : BitVec 4) (d : Dest) (f : RegAddr) :
    formatA op d f &&& 0xFF80#16 = formatA op d 0#7 := by
  apply BitVec.eq_of_getLsbD_eq
  intro i hi
  simp only [formatA, BitVec.getLsbD_and, BitVec.getLsbD_append]
  interval_cases i <;> simp

/-- Format B under the mask of R88's class-1 rows. -/
theorem formatB_fits (op : BitVec 2) (b : BitVec 3) (f : RegAddr) :
    formatB op b f &&& 0xFC00#16 = formatB op 0#3 0#7 := by
  apply BitVec.eq_of_getLsbD_eq
  intro i hi
  simp only [formatB, BitVec.getLsbD_and, BitVec.getLsbD_append]
  interval_cases i <;> simp

/-- Format C under the mask of R88's class-2 rows. -/
theorem formatC_fits (g : BitVec 1) (k : BitVec 11) : formatC g k &&& 0xF800#16 = formatC g 0#11 := by
  apply BitVec.eq_of_getLsbD_eq
  intro i hi
  simp only [formatC, BitVec.getLsbD_and, BitVec.getLsbD_append]
  interval_cases i <;> simp

/-- Format L under any mask that keeps bits of the sub-opcode only. -/
theorem formatL_fits (op : BitVec 4) (k : Byte) (m : BitVec 4) :
    formatL op k &&& (0xF#4 ++ m ++ 0#8 : Word) = formatL (op &&& m) 0#8 := by
  apply BitVec.eq_of_getLsbD_eq
  intro i hi
  simp only [formatL, BitVec.getLsbD_and, BitVec.getLsbD_append]
  interval_cases i <;> simp

/-- Format L under a mask of ignored sub-opcode bits. -/
theorem formatL_ignored (op : BitVec 4) (k : Byte) (m : BitVec 4) :
    formatL op k &&& (0x0#4 ++ m ++ 0#8 : Word) = (0x0#4 ++ (op &&& m) ++ 0#8 : Word) := by
  apply BitVec.eq_of_getLsbD_eq
  intro i hi
  simp only [formatL, BitVec.getLsbD_and, BitVec.getLsbD_append]
  interval_cases i <;> simp

/-- A row is met where the masked word is the pattern. -/
theorem fits_of {r : OpcodeRow} {w : Word} (h : w &&& r.mask = r.pattern) : r.fits w = true := by
  simp [OpcodeRow.fits, h]

theorem nop : Statement .nop :=
  fun _ => by decide

theorem ret : Statement .ret :=
  fun _ => by decide

theorem retfie : Statement .retfie :=
  fun _ => by decide

theorem sleep : Statement .sleep :=
  fun _ => by decide

theorem invalidC0 (f : RegAddr) : Statement (.invalidC0 f) :=
  fun _ => ⟨fits_of (formatA_fits_d _ _ f), BitVec.and_zero⟩

theorem movwf (f : RegAddr) : Statement (.movwf f) :=
  fun _ => ⟨fits_of (formatA_fits_d _ _ f), BitVec.and_zero⟩

theorem clrw : Statement .clrw :=
  fun _ => by decide

theorem clrf (f : RegAddr) : Statement (.clrf f) :=
  fun _ => ⟨fits_of (formatA_fits_d _ _ f), BitVec.and_zero⟩

theorem subwf (f : RegAddr) (d : Dest) : Statement (.subwf f d) :=
  fun _ => ⟨fits_of (formatA_fits _ d f), BitVec.and_zero⟩

theorem decf (f : RegAddr) (d : Dest) : Statement (.decf f d) :=
  fun _ => ⟨fits_of (formatA_fits _ d f), BitVec.and_zero⟩

theorem iorwf (f : RegAddr) (d : Dest) : Statement (.iorwf f d) :=
  fun _ => ⟨fits_of (formatA_fits _ d f), BitVec.and_zero⟩

theorem andwf (f : RegAddr) (d : Dest) : Statement (.andwf f d) :=
  fun _ => ⟨fits_of (formatA_fits _ d f), BitVec.and_zero⟩

theorem xorwf (f : RegAddr) (d : Dest) : Statement (.xorwf f d) :=
  fun _ => ⟨fits_of (formatA_fits _ d f), BitVec.and_zero⟩

theorem addwf (f : RegAddr) (d : Dest) : Statement (.addwf f d) :=
  fun _ => ⟨fits_of (formatA_fits _ d f), BitVec.and_zero⟩

theorem movf (f : RegAddr) (d : Dest) : Statement (.movf f d) :=
  fun _ => ⟨fits_of (formatA_fits _ d f), BitVec.and_zero⟩

theorem comf (f : RegAddr) (d : Dest) : Statement (.comf f d) :=
  fun _ => ⟨fits_of (formatA_fits _ d f), BitVec.and_zero⟩

theorem incf (f : RegAddr) (d : Dest) : Statement (.incf f d) :=
  fun _ => ⟨fits_of (formatA_fits _ d f), BitVec.and_zero⟩

theorem decfsz (f : RegAddr) (d : Dest) : Statement (.decfsz f d) :=
  fun _ => ⟨fits_of (formatA_fits _ d f), BitVec.and_zero⟩

theorem rlf (f : RegAddr) (d : Dest) : Statement (.rlf f d) :=
  fun _ => ⟨fits_of (formatA_fits _ d f), BitVec.and_zero⟩

theorem rrf (f : RegAddr) (d : Dest) : Statement (.rrf f d) :=
  fun _ => ⟨fits_of (formatA_fits _ d f), BitVec.and_zero⟩

theorem swapf (f : RegAddr) (d : Dest) : Statement (.swapf f d) :=
  fun _ => ⟨fits_of (formatA_fits _ d f), BitVec.and_zero⟩

theorem incfsz (f : RegAddr) (d : Dest) : Statement (.incfsz f d) :=
  fun _ => ⟨fits_of (formatA_fits _ d f), BitVec.and_zero⟩

theorem bcf (f : RegAddr) (b : BitVec 3) : Statement (.bcf f b) :=
  fun _ => ⟨fits_of (formatB_fits _ b f), BitVec.and_zero⟩

theorem bsf (f : RegAddr) (b : BitVec 3) : Statement (.bsf f b) :=
  fun _ => ⟨fits_of (formatB_fits _ b f), BitVec.and_zero⟩

theorem btfsc (f : RegAddr) (b : BitVec 3) : Statement (.btfsc f b) :=
  fun _ => ⟨fits_of (formatB_fits _ b f), BitVec.and_zero⟩

theorem btfss (f : RegAddr) (b : BitVec 3) : Statement (.btfss f b) :=
  fun _ => ⟨fits_of (formatB_fits _ b f), BitVec.and_zero⟩

theorem call (k : BitVec 11) : Statement (.call k) :=
  fun _ => ⟨fits_of (formatC_fits _ k), BitVec.and_zero⟩

theorem goto (k : BitVec 11) : Statement (.goto k) :=
  fun _ => ⟨fits_of (formatC_fits _ k), BitVec.and_zero⟩

theorem movlw (k : Byte) : Statement (.movlw k) :=
  fun _ => ⟨fits_of (formatL_fits _ k 0xC), formatL_ignored _ k 0x3⟩

theorem retlw (k : Byte) : Statement (.retlw k) :=
  fun _ => ⟨fits_of (formatL_fits _ k 0xC), formatL_ignored _ k 0x3⟩

theorem iorlw (k : Byte) : Statement (.iorlw k) :=
  fun _ => ⟨fits_of (formatL_fits _ k 0xF), formatL_ignored _ k 0x0⟩

theorem andlw (k : Byte) : Statement (.andlw k) :=
  fun _ => ⟨fits_of (formatL_fits _ k 0xF), formatL_ignored _ k 0x0⟩

theorem xorlw (k : Byte) : Statement (.xorlw k) :=
  fun _ => ⟨fits_of (formatL_fits _ k 0xF), formatL_ignored _ k 0x0⟩

theorem invalidL : Statement .invalidL :=
  fun _ => by decide

theorem sublw (k : Byte) : Statement (.sublw k) :=
  fun _ => ⟨fits_of (formatL_fits _ k 0xE), formatL_ignored _ k 0x1⟩

theorem addlw (k : Byte) : Statement (.addlw k) :=
  fun _ => ⟨fits_of (formatL_fits _ k 0xE), formatL_ignored _ k 0x1⟩

theorem invalidClass1 : Statement .invalidClass1 :=
  fun _ => by decide

theorem invalidClass2 : Statement .invalidClass2 :=
  fun _ => by decide

theorem invalidClass3 : Statement .invalidClass3 :=
  fun _ => by decide

end Sys2Proof.Laws.EncodeFitsRow
end

