-- ==== Sys2Proof/Laws/Step.lean ====
section
/-! SUPPORT. Everything a step can do, said once, and what one more step makes of a run. -/

namespace Sys2Proof.Machine

theorem State.ended_eq_false_iff (s : State) : s.ended = false ↔ s.Live := by
  simp [State.ended, State.Live]

/-- A step is refused after the end of the run, stuck where the image holds no word, or the execution of the word at `PC`. -/
theorem step_cases (s : State) :
    (¬ s.Live ∧ step s = .refused .runEnded) ∨
    (s.Live ∧ s.program.lookup s.pc = none ∧ step s = .fault .noProgramWord) ∨
    (s.Live ∧ ∃ x, s.program.lookup s.pc = some x ∧ step s = exec (decode x) s) := by
  cases he : s.ended with
  | true =>
    refine .inl ⟨fun hl => ?_, by simp [step, he]⟩
    rw [(State.ended_eq_false_iff s).2 hl] at he
    cases he
  | false =>
    have hl := (State.ended_eq_false_iff s).1 he
    cases hf : s.program.lookup s.pc with
    | none => exact .inr (.inl ⟨hl, rfl, by simp [step, he, State.fetch, hf]⟩)
    | some x => exact .inr (.inr ⟨hl, x, rfl, by simp [step, he, State.fetch, hf, dispatch]⟩)

/-- A fault of the four kinds of R221 ends a run faulted; the missing word leaves it stuck. -/
theorem RunResult.ofFault_cases (k : Fault) (s : State) :
    (k = .noProgramWord ∧ RunResult.ofFault k s = .stuck s) ∨
    (k ≠ .noProgramWord ∧ RunResult.ofFault k s = .faulted k s) := by
  cases k <;> simp [RunResult.ofFault]

theorem runFor_next_ok {n : Nat} {s t : State} (h : step s = .next t) (hs : t.signal = .ok) : runFor (n + 1) s = runFor n t := by
  simp [runFor, h, hs]

theorem runFor_next_standby {n : Nat} {s t : State} (h : step s = .next t) (hs : t.signal = .standby) :
    runFor (n + 1) s = .standby t := by
  simp [runFor, h, hs]

theorem runFor_next_exit {n : Nat} {s t : State} {k : Byte} (h : step s = .next t) (hs : t.signal = .exit k) :
    runFor (n + 1) s = .exited k t := by
  simp [runFor, h, hs]

theorem runFor_fault {n : Nat} {s : State} {k : Fault} (h : step s = .fault k) : runFor (n + 1) s = .ofFault k s := by
  simp [runFor, h]

end Sys2Proof.Machine
end

