-- ==== Sys2Proof/Tests/Slice0.lean ====
section
/-! SUPPORT. The model's own tests: the smoke test of WellFormed, words written out from the spec's encodings, at most two small
tests per instruction with the expected values of 95_test_vectors.md, and one witness for every statement that has hypotheses. -/

namespace Sys2Proof.Machine

/-! ### Small states and what a test looks at. -/

/-- A session with the default parameters, as a row of 95_test_vectors.md gives it. -/
def mk (w : Byte) (pc : Nat) (stack : List Nat) (rf : Memory) : State :=
  { State.create Config.default w rf [] with pc := pc, stack := stack }

/-- What a test reads off a next state: `W`, `PC`, one register and the status byte. -/
structure Seen where
  w : Byte
  pc : Nat
  reg : Byte
  status : Byte
  deriving DecidableEq, Repr

def look (a : RegAddr) : DispatchResult → Option Seen
  | .next t => some ⟨t.w, t.pc, t.memRead a, t.status⟩
  | .fault _ => none
  | .refused _ => none

def lookStack : DispatchResult → Option (Nat × List Nat)
  | .next t => some (t.pc, t.stack)
  | .fault _ => none
  | .refused _ => none

def lookEnd : DispatchResult → Option (Signal × Bool)
  | .next t => some (t.signal, t.running)
  | .fault _ => none
  | .refused _ => none

def kindOf : DispatchResult → Option Fault
  | .next _ => none
  | .fault k => some k
  | .refused _ => none

/-! ### WellFormed: the one check is that INVALID_C0 is the fallback (R88), so its seven assigned words are refused. -/

theorem test_wellFormed_refuses_nop_word : (Instr.invalidC0 0x00#7).wellFormed = false := by decide
theorem test_wellFormed_refuses_nop_alias : (Instr.invalidC0 0x60#7).wellFormed = false := by decide
theorem test_wellFormed_refuses_return_word : (Instr.invalidC0 0x08#7).wellFormed = false := by decide
theorem test_wellFormed_refuses_retfie_word : (Instr.invalidC0 0x09#7).wellFormed = false := by decide
theorem test_wellFormed_refuses_sleep_word : (Instr.invalidC0 0x63#7).wellFormed = false := by decide
theorem test_wellFormed_accepts_clrwdt_word : (Instr.invalidC0 0x64#7).wellFormed = true := by decide

/-! ### Decoding: one word per constructor, spelled bit by bit from the patterns of R88. -/

theorem test_decode_nop : decode 0b0000000001000000#16 = .nop := by decide
theorem test_decode_return : decode 0b0000000000001000#16 = .ret := by decide
theorem test_decode_retfie : decode 0b0000000000001001#16 = .retfie := by decide
theorem test_decode_sleep : decode 0b0000000001100011#16 = .sleep := by decide
theorem test_decode_invalidC0 : decode 0b0000000001100100#16 = .invalidC0 0x64#7 := by decide
theorem test_decode_movwf : decode 0b0000000011111110#16 = .movwf 0x7E#7 := by decide
theorem test_decode_clrw : decode 0b0000000101010101#16 = .clrw := by decide
theorem test_decode_clrf : decode 0b0000000110100000#16 = .clrf 0x20#7 := by decide
theorem test_decode_subwf : decode 0b0000001000100000#16 = .subwf 0x20#7 .w := by decide
theorem test_decode_decf : decode 0b0000001110000011#16 = .decf 0x03#7 .f := by decide
theorem test_decode_iorwf : decode 0b0000010001111111#16 = .iorwf 0x7F#7 .w := by decide
theorem test_decode_andwf : decode 0b0000010110000001#16 = .andwf 0x01#7 .f := by decide
theorem test_decode_xorwf : decode 0b0000011001010101#16 = .xorwf 0x55#7 .w := by decide
theorem test_decode_addwf : decode 0b0000011110101010#16 = .addwf 0x2A#7 .f := by decide
theorem test_decode_movf : decode 0b0000100001000000#16 = .movf 0x40#7 .w := by decide
theorem test_decode_comf : decode 0b0000100110100000#16 = .comf 0x20#7 .f := by decide
theorem test_decode_incf : decode 0b0000101000000011#16 = .incf 0x03#7 .w := by decide
theorem test_decode_decfsz : decode 0b0000101111111111#16 = .decfsz 0x7F#7 .f := by decide
theorem test_decode_rlf : decode 0b0000110000000001#16 = .rlf 0x01#7 .w := by decide
theorem test_decode_rrf : decode 0b0000110111010101#16 = .rrf 0x55#7 .f := by decide
theorem test_decode_swapf : decode 0b0000111000101010#16 = .swapf 0x2A#7 .w := by decide
theorem test_decode_incfsz : decode 0b0000111111000000#16 = .incfsz 0x40#7 .f := by decide
theorem test_decode_bcf : decode 0b0001000110100000#16 = .bcf 0x20#7 3#3 := by decide
theorem test_decode_bsf : decode 0b0001011110001011#16 = .bsf 0x0B#7 7#3 := by decide
theorem test_decode_btfsc : decode 0b0001100000000011#16 = .btfsc 0x03#7 0#3 := by decide
theorem test_decode_btfss : decode 0b0001111001111111#16 = .btfss 0x7F#7 4#3 := by decide
theorem test_decode_call : decode 0b0010010001010110#16 = .call 0x456#11 := by decide
theorem test_decode_goto : decode 0b0010111111111110#16 = .goto 0x7FE#11 := by decide
theorem test_decode_movlw : decode 0b0011001110101011#16 = .movlw 0xAB#8 := by decide
theorem test_decode_retlw : decode 0b0011011000101010#16 = .retlw 0x2A#8 := by decide
theorem test_decode_iorlw : decode 0b0011100011110000#16 = .iorlw 0xF0#8 := by decide
theorem test_decode_andlw : decode 0b0011100100001111#16 = .andlw 0x0F#8 := by decide
theorem test_decode_xorlw : decode 0b0011101000101011#16 = .xorlw 0x2B#8 := by decide
theorem test_decode_invalidL : decode 0b0011101101111111#16 = .invalidL := by decide
theorem test_decode_sublw : decode 0b0011110100100000#16 = .sublw 0x20#8 := by decide
theorem test_decode_addlw : decode 0b0011111000000011#16 = .addlw 0x03#8 := by decide
theorem test_decode_invalidClass1 : decode 0b0111111111111111#16 = .invalidClass1 := by decide
theorem test_decode_invalidClass2 : decode 0b1000000000000000#16 = .invalidClass2 := by decide
theorem test_decode_invalidClass3 : decode 0b1100000000001000#16 = .invalidClass3 := by decide

theorem test_decodeTableWord_reads_the_word : decodeTableWord 16 0x07A0 = some (.addwf 0x20#7 .f) := by decide
theorem test_decodeTableWord_drops_higher_bits : decodeTableWord 8 0x1208 = some .ret := by decide
theorem test_decodeTableWord_knows_one_length : decodeTableWord 32 0x07A0 = none := by decide

/-! ### Reset, fetch and step. -/

theorem test_reset_pc_stack_running : State.reset.pc = 0 ∧ State.reset.stack = [] ∧ State.reset.running = true := by decide
theorem test_step_runs_the_placed_word :
    look 0x20#7 (step (State.reset.withFetchWord 16 0x3005)) = some ⟨0x05#8, 0x001, 0x00#8, 0x00#8⟩ := by decide
theorem test_step_without_a_word_is_stuck : kindOf (step State.reset) = some .noProgramWord := by decide
theorem test_write_of_zero_unlists : Memory.write [(0x03, 0x05#8), (0x20, 0x01#8)] 0x20 0x00#8 = [(0x03, 0x05#8)] := by decide

/-! ### Class 0. -/

/-- V53 of 95_test_vectors.md: `MOVWF 0x03`. -/
theorem test_movwf_at_status : look 0x03#7 (dispatch 0x0083#16 (mk 0x00#8 0x000 [] [(0x03, 0x07#8)])) =
    some ⟨0x00#8, 0x001, 0x00#8, 0x00#8⟩ := by decide

/-- V54 of 95_test_vectors.md: `MOVWF 0x0B`. -/
theorem test_movwf_at_intcon : look 0x0B#7 (dispatch 0x008B#16 (mk 0x80#8 0x000 [] [])) =
    some ⟨0x80#8, 0x001, 0x80#8, 0x00#8⟩ := by decide

/-- V24 of 95_test_vectors.md: `RETURN`. -/
theorem test_return_pops_the_top : lookStack (dispatch 0x0008#16 (mk 0x00#8 0x100 [0x00A, 0x00B] [])) =
    some (0x00B, [0x00A]) := by decide

/-- V184 of 95_test_vectors.md: `RETURN`. -/
theorem test_return_on_empty_stack :
    kindOf (dispatch 0x0008#16 (mk 0x5A#8 0x123 [] [(0x03, 0x05#8)])) = some .stackEmpty := by
  decide

/-- V58 of 95_test_vectors.md: `RETFIE`. -/
theorem test_retfie_keeps_other_bits : look 0x0B#7 (dispatch 0x0009#16 (mk 0x00#8 0x020 [0x010] [(0x0B, 0x81#8)])) =
    some ⟨0x00#8, 0x010, 0x81#8, 0x00#8⟩ := by decide

/-- V185 of 95_test_vectors.md: `RETFIE`. -/
theorem test_retfie_on_empty_stack :
    kindOf (dispatch 0x0009#16 (mk 0x5A#8 0x123 [] [(0x03, 0x05#8)])) = some .stackEmpty := by
  decide

/-- V60 of 95_test_vectors.md: SLEEP leaves `running` true and signals STANDBY (C10). -/
theorem test_sleep_signals_standby : lookEnd (dispatch 0x0063#16 (mk 0x00#8 0x004 [] [])) = some (.standby, true) := by decide

/-- V60 of 95_test_vectors.md: `SLEEP`. -/
theorem test_sleep_advances : look 0x20#7 (dispatch 0x0063#16 (mk 0x00#8 0x004 [] [])) =
    some ⟨0x00#8, 0x005, 0x00#8, 0x00#8⟩ := by decide

/-- V62 of 95_test_vectors.md: `NOP`. -/
theorem test_nop_alias : look 0x20#7 (dispatch 0x0020#16 (mk 0x00#8 0x000 [] [])) =
    some ⟨0x00#8, 0x001, 0x00#8, 0x00#8⟩ := by decide

/-- V181 of 95_test_vectors.md: `invalid`. -/
theorem test_invalidC0_raises :
    kindOf (dispatch 0x0005#16 (mk 0x5A#8 0x123 [0x010] [(0x03, 0x05#8)])) = some .invalidInstruction := by
  decide

/-- V108 of 95_test_vectors.md: `CLRF 0x03`. -/
theorem test_clrf_at_status : look 0x03#7 (dispatch 0x0183#16 (mk 0x00#8 0x000 [] [(0x03, 0xFF#8)])) =
    some ⟨0x00#8, 0x001, 0x04#8, 0x04#8⟩ := by decide

/-- V66 of 95_test_vectors.md: `CLRW`. -/
theorem test_clrw_keeps_c_dc : look 0x20#7 (dispatch 0x0100#16 (mk 0x33#8 0x000 [] [(0x03, 0x03#8), (0x20, 0x7E#8)])) =
    some ⟨0x00#8, 0x001, 0x7E#8, 0x07#8⟩ := by decide

/-- V69 of 95_test_vectors.md: `SUBWF 0x20, 1`. -/
theorem test_subwf_zero_subtrahend : look 0x20#7 (dispatch 0x02A0#16 (mk 0x00#8 0x000 [] [(0x20, 0x07#8)])) =
    some ⟨0x00#8, 0x001, 0x07#8, 0x00#8⟩ := by decide

/-- V71 of 95_test_vectors.md: `SUBWF 0x20, 0`. -/
theorem test_subwf_equal_low_nibble_zero : look 0x20#7 (dispatch 0x0220#16 (mk 0x80#8 0x000 [] [(0x20, 0x80#8)])) =
    some ⟨0x00#8, 0x001, 0x80#8, 0x05#8⟩ := by decide

/-- V73 of 95_test_vectors.md: `DECF 0x20, 1`. -/
theorem test_decf_wraps : look 0x20#7 (dispatch 0x03A0#16 (mk 0x00#8 0x000 [] [])) =
    some ⟨0x00#8, 0x001, 0xFF#8, 0x00#8⟩ := by decide

/-- V74 of 95_test_vectors.md: `DECF 0x20, 1`. -/
theorem test_decf_keeps_c : look 0x20#7 (dispatch 0x03A0#16 (mk 0x00#8 0x000 [] [(0x03, 0x01#8), (0x20, 0x10#8)])) =
    some ⟨0x00#8, 0x001, 0x0F#8, 0x01#8⟩ := by decide

/-- V75 of 95_test_vectors.md: `IORWF 0x20, 0`. -/
theorem test_iorwf : look 0x20#7 (dispatch 0x0420#16 (mk 0xF0#8 0x000 [] [(0x20, 0x0F#8)])) =
    some ⟨0xFF#8, 0x001, 0x0F#8, 0x00#8⟩ := by decide

/-- V78 of 95_test_vectors.md: `ANDWF 0x20, 1`. -/
theorem test_andwf_to_register : look 0x20#7 (dispatch 0x05A0#16 (mk 0xF0#8 0x000 [] [(0x20, 0x0F#8)])) =
    some ⟨0xF0#8, 0x001, 0x00#8, 0x04#8⟩ := by decide

/-- V80 of 95_test_vectors.md: `XORWF 0x20, 1`. -/
theorem test_xorwf_to_register : look 0x20#7 (dispatch 0x06A0#16 (mk 0xFF#8 0x000 [] [(0x20, 0x0F#8)])) =
    some ⟨0xFF#8, 0x001, 0xF0#8, 0x00#8⟩ := by decide

/-- V107 of 95_test_vectors.md: `ADDWF 0x03, 1`. -/
theorem test_addwf_at_status : look 0x03#7 (dispatch 0x0783#16 (mk 0x10#8 0x000 [] [(0x03, 0xF0#8)])) =
    some ⟨0x10#8, 0x001, 0x05#8, 0x05#8⟩ := by decide

/-- V83 of 95_test_vectors.md: `ADDWF 0x20, 0`. -/
theorem test_addwf_carries : look 0x20#7 (dispatch 0x0720#16 (mk 0x01#8 0x000 [] [(0x20, 0xFF#8)])) =
    some ⟨0x00#8, 0x001, 0xFF#8, 0x07#8⟩ := by decide

/-- V85 of 95_test_vectors.md: `MOVF 0x20, 0`. -/
theorem test_movf_to_w : look 0x20#7 (dispatch 0x0820#16 (mk 0x99#8 0x000 [] [(0x20, 0x42#8)])) =
    some ⟨0x42#8, 0x001, 0x42#8, 0x00#8⟩ := by decide

/-- V86 of 95_test_vectors.md: `MOVF 0x20, 1`. -/
theorem test_movf_tests_zero : look 0x20#7 (dispatch 0x08A0#16 (mk 0x99#8 0x000 [] [])) =
    some ⟨0x99#8, 0x001, 0x00#8, 0x04#8⟩ := by decide

/-- V87 of 95_test_vectors.md: `COMF 0x20, 0`. -/
theorem test_comf : look 0x20#7 (dispatch 0x0920#16 (mk 0x00#8 0x000 [] [(0x20, 0x5A#8)])) =
    some ⟨0xA5#8, 0x001, 0x5A#8, 0x00#8⟩ := by decide

/-- V90 of 95_test_vectors.md: `INCF 0x20, 1`. -/
theorem test_incf_wraps_keeps_c : look 0x20#7 (dispatch 0x0AA0#16 (mk 0x00#8 0x000 [] [(0x03, 0x03#8), (0x20, 0xFF#8)])) =
    some ⟨0x00#8, 0x001, 0x00#8, 0x07#8⟩ := by decide

/-- V113 of 95_test_vectors.md: `INCF 0x03, 1`. -/
theorem test_incf_at_status : look 0x03#7 (dispatch 0x0A83#16 (mk 0x00#8 0x000 [] [(0x03, 0xFF#8)])) =
    some ⟨0x00#8, 0x001, 0x04#8, 0x04#8⟩ := by decide

/-- V92 of 95_test_vectors.md: `DECFSZ 0x20, 1`. -/
theorem test_decfsz_skips : look 0x20#7 (dispatch 0x0BA0#16 (mk 0x00#8 0x010 [] [(0x20, 0x01#8)])) =
    some ⟨0x00#8, 0x012, 0x00#8, 0x00#8⟩ := by decide

/-- V91 of 95_test_vectors.md: `DECFSZ 0x20, 0`. -/
theorem test_decfsz_to_w : look 0x20#7 (dispatch 0x0B20#16 (mk 0x00#8 0x010 [] [(0x20, 0x05#8)])) =
    some ⟨0x04#8, 0x011, 0x05#8, 0x00#8⟩ := by decide

/-- V110 of 95_test_vectors.md: `RLF 0x03, 1`. -/
theorem test_rlf_at_status : look 0x03#7 (dispatch 0x0C83#16 (mk 0x00#8 0x000 [] [(0x03, 0x81#8)])) =
    some ⟨0x00#8, 0x001, 0x03#8, 0x03#8⟩ := by decide

/-- V111 of 95_test_vectors.md: `RRF 0x03, 1`. -/
theorem test_rrf_at_status : look 0x03#7 (dispatch 0x0D83#16 (mk 0x00#8 0x000 [] [(0x03, 0x01#8)])) =
    some ⟨0x00#8, 0x001, 0x81#8, 0x81#8⟩ := by decide

/-- V101 of 95_test_vectors.md: `SWAPF 0x20, 0`. -/
theorem test_swapf_to_w : look 0x20#7 (dispatch 0x0E20#16 (mk 0x00#8 0x000 [] [(0x20, 0xA5#8)])) =
    some ⟨0x5A#8, 0x001, 0xA5#8, 0x00#8⟩ := by decide

/-- V112 of 95_test_vectors.md: `SWAPF 0x03, 1`. -/
theorem test_swapf_at_status : look 0x03#7 (dispatch 0x0E83#16 (mk 0x00#8 0x000 [] [(0x03, 0x3F#8)])) =
    some ⟨0x00#8, 0x001, 0xF3#8, 0xF3#8⟩ := by decide

/-- V105 of 95_test_vectors.md: `INCFSZ 0x20, 1`. -/
theorem test_incfsz_skip_wraps_pc : look 0x20#7 (dispatch 0x0FA0#16 (mk 0x00#8 0x7FE [] [(0x20, 0xFF#8)])) =
    some ⟨0x00#8, 0x000, 0x00#8, 0x00#8⟩ := by decide

/-- V104 of 95_test_vectors.md: `INCFSZ 0x20, 1`. -/
theorem test_incfsz_keeps_z : look 0x20#7 (dispatch 0x0FA0#16 (mk 0x00#8 0x010 [] [(0x03, 0x04#8), (0x20, 0x7F#8)])) =
    some ⟨0x00#8, 0x011, 0x80#8, 0x04#8⟩ := by decide

/-- I17 of 93_implementation_defined.md, from its literal formula `(regVal >> 7) | 1`, which is 1 for every byte. -/
theorem test_rrf_literal_carry :
    look 0x20#7 (dispatch 0x0DA0#16
      { mk 0x00#8 0x000 [] [(0x20, 0x82#8)] with config := { Config.default with rotateCarryLiteral := true } }) =
    some ⟨0x00#8, 0x001, 0x41#8, 0x01#8⟩ := by decide

/-- I17 of 93_implementation_defined.md, from its literal formula: `regVal | 1` is exactly 1 only for 0 and 1. -/
theorem test_rlf_literal_carry :
    look 0x20#7 (dispatch 0x0CA0#16
      { mk 0x00#8 0x000 [] [(0x20, 0x01#8)] with config := { Config.default with rotateCarryLiteral := true } }) =
    some ⟨0x00#8, 0x001, 0x02#8, 0x01#8⟩ := by decide

/-! ### Class 1. -/

/-- V121 of 95_test_vectors.md: `BCF 0x20, 7`. -/
theorem test_bcf_bit_7 : look 0x20#7 (dispatch 0x13A0#16 (mk 0x00#8 0x010 [] [(0x20, 0x80#8)])) =
    some ⟨0x00#8, 0x011, 0x00#8, 0x00#8⟩ := by decide

/-- V116 of 95_test_vectors.md: `BCF 0x03, 1`. -/
theorem test_bcf_at_status : look 0x03#7 (dispatch 0x1083#16 (mk 0x00#8 0x000 [] [(0x03, 0x07#8)])) =
    some ⟨0x00#8, 0x001, 0x05#8, 0x05#8⟩ := by decide

/-- V123 of 95_test_vectors.md: `BSF 0x20, 7`. -/
theorem test_bsf_bit_7 : look 0x20#7 (dispatch 0x17A0#16 (mk 0x00#8 0x010 [] [])) =
    some ⟨0x00#8, 0x011, 0x80#8, 0x00#8⟩ := by decide

/-- V133 of 95_test_vectors.md: `BSF 0x0B, 7`. -/
theorem test_bsf_at_intcon : look 0x0B#7 (dispatch 0x178B#16 (mk 0x00#8 0x000 [] [])) =
    some ⟨0x00#8, 0x001, 0x80#8, 0x00#8⟩ := by decide

/-- V126 of 95_test_vectors.md: `BTFSC 0x20, 0`. -/
theorem test_btfsc_no_skip : look 0x20#7 (dispatch 0x1820#16 (mk 0x00#8 0x010 [] [(0x20, 0x01#8)])) =
    some ⟨0x00#8, 0x011, 0x01#8, 0x00#8⟩ := by decide

/-- V127 of 95_test_vectors.md: `BTFSC 0x20, 7`. -/
theorem test_btfsc_skips : look 0x20#7 (dispatch 0x1BA0#16 (mk 0x00#8 0x010 [] [(0x20, 0x7F#8)])) =
    some ⟨0x00#8, 0x012, 0x7F#8, 0x00#8⟩ := by decide

/-- V132 of 95_test_vectors.md: `BTFSS 0x20, 0`. -/
theorem test_btfss_skip_wraps_pc : look 0x20#7 (dispatch 0x1C20#16 (mk 0x00#8 0x7FF [] [(0x20, 0x01#8)])) =
    some ⟨0x00#8, 0x001, 0x01#8, 0x00#8⟩ := by decide

/-- V130 of 95_test_vectors.md: `BTFSS 0x20, 0`. -/
theorem test_btfss_no_skip : look 0x20#7 (dispatch 0x1C20#16 (mk 0x00#8 0x010 [] [])) =
    some ⟨0x00#8, 0x011, 0x00#8, 0x00#8⟩ := by decide

/-! ### Class 2. -/

/-- V137 of 95_test_vectors.md: `CALL 0x7FF`. -/
theorem test_call_wraps_the_return_address : lookStack (dispatch 0x27FF#16 (mk 0x00#8 0x7FF [] [])) =
    some (0x7FF, [0x000]) := by decide

/-- V183 of 95_test_vectors.md: `CALL 0x100`. -/
theorem test_call_on_full_stack :
    kindOf (dispatch 0x2100#16 (mk 0x5A#8 0x123 [0x001, 0x002, 0x003, 0x004, 0x005, 0x006, 0x007, 0x008] [(0x03, 0x05#8)])) = some .stackFull := by
  decide

/-- V141 of 95_test_vectors.md: `GOTO 0x000`. -/
theorem test_goto_leaves_the_stack : lookStack (dispatch 0x2800#16 (mk 0x00#8 0x000 [0x010] [])) =
    some (0x000, [0x010]) := by decide

/-- V140 of 95_test_vectors.md: `GOTO 0x7FF`. -/
theorem test_goto_highest_target : look 0x20#7 (dispatch 0x2FFF#16 (mk 0x00#8 0x000 [] [])) =
    some ⟨0x00#8, 0x7FF, 0x00#8, 0x00#8⟩ := by decide

/-! ### Class 3. -/

/-- V144 of 95_test_vectors.md: `MOVLW 0x00`. -/
theorem test_movlw_keeps_z : look 0x03#7 (dispatch 0x3000#16 (mk 0xFF#8 0x000 [] [(0x03, 0x07#8)])) =
    some ⟨0x00#8, 0x001, 0x07#8, 0x07#8⟩ := by decide

/-- V148 of 95_test_vectors.md: `RETLW 0xFF`. -/
theorem test_retlw_pops : lookStack (dispatch 0x37FF#16 (mk 0x11#8 0x000 [0x100, 0x200] [])) =
    some (0x200, [0x100]) := by decide

/-- V30 of 95_test_vectors.md: RETLW 0xFF on an empty stack. -/
theorem test_retlw_exits : lookEnd (dispatch 0x34FF#16 (mk 0x11#8 0x003 [] [])) = some (.exit 0xFF#8, false) := by decide

/-- V150 of 95_test_vectors.md: `SUBLW 0x08`. -/
theorem test_sublw_zero_w : look 0x03#7 (dispatch 0x3C08#16 (mk 0x00#8 0x000 [] [])) =
    some ⟨0x08#8, 0x001, 0x00#8, 0x00#8⟩ := by decide

/-- V155 of 95_test_vectors.md: `SUBLW 0x20`. -/
theorem test_sublw_alias : look 0x03#7 (dispatch 0x3D20#16 (mk 0x10#8 0x000 [] [])) =
    some ⟨0x10#8, 0x001, 0x01#8, 0x01#8⟩ := by decide

/-- V158 of 95_test_vectors.md: `ADDLW 0x0F`. -/
theorem test_addlw_half_carry : look 0x03#7 (dispatch 0x3E0F#16 (mk 0x01#8 0x000 [] [])) =
    some ⟨0x10#8, 0x001, 0x02#8, 0x02#8⟩ := by decide

/-- V160 of 95_test_vectors.md: `ADDLW 0x00`. -/
theorem test_addlw_alias_clears_c_dc : look 0x03#7 (dispatch 0x3F00#16 (mk 0x00#8 0x000 [] [(0x03, 0x03#8)])) =
    some ⟨0x00#8, 0x001, 0x04#8, 0x04#8⟩ := by decide

/-- V162 of 95_test_vectors.md: `IORLW 0xF0`. -/
theorem test_iorlw : look 0x03#7 (dispatch 0x38F0#16 (mk 0x0F#8 0x000 [] [])) =
    some ⟨0xFF#8, 0x001, 0x00#8, 0x00#8⟩ := by decide

/-- V161 of 95_test_vectors.md: `IORLW 0x00`. -/
theorem test_iorlw_tests_zero : look 0x03#7 (dispatch 0x3800#16 (mk 0x00#8 0x000 [] [])) =
    some ⟨0x00#8, 0x001, 0x04#8, 0x04#8⟩ := by decide

/-- V163 of 95_test_vectors.md: `ANDLW 0x0F`. -/
theorem test_andlw : look 0x03#7 (dispatch 0x390F#16 (mk 0x3C#8 0x000 [] [])) =
    some ⟨0x0C#8, 0x001, 0x00#8, 0x00#8⟩ := by decide

/-- V164 of 95_test_vectors.md: `ANDLW 0x00`. -/
theorem test_andlw_zero : look 0x03#7 (dispatch 0x3900#16 (mk 0xFF#8 0x000 [] [])) =
    some ⟨0x00#8, 0x001, 0x04#8, 0x04#8⟩ := by decide

/-- V165 of 95_test_vectors.md: `XORLW 0x2A`. -/
theorem test_xorlw_equal : look 0x03#7 (dispatch 0x3A2A#16 (mk 0x2A#8 0x000 [] [])) =
    some ⟨0x00#8, 0x001, 0x04#8, 0x04#8⟩ := by decide

/-- V166 of 95_test_vectors.md: `XORLW 0xFF`. -/
theorem test_xorlw : look 0x03#7 (dispatch 0x3AFF#16 (mk 0x0F#8 0x000 [] [])) =
    some ⟨0xF0#8, 0x001, 0x00#8, 0x00#8⟩ := by decide

/-- V182 of 95_test_vectors.md: `invalid`. -/
theorem test_invalidL_raises :
    kindOf (dispatch 0x3B12#16 (mk 0x5A#8 0x123 [0x010] [(0x03, 0x05#8)])) = some .invalidInstruction := by
  decide

/-- V37 of 95_test_vectors.md: `invalid class`. -/
theorem test_invalidClass1 :
    kindOf (dispatch 0x4000#16 (mk 0x12#8 0x020 [] [])) = some .invalidInstructionClass := by
  decide

/-- V38 of 95_test_vectors.md: `invalid class`. -/
theorem test_invalidClass2 :
    kindOf (dispatch 0x8000#16 (mk 0x12#8 0x020 [] [])) = some .invalidInstructionClass := by
  decide

/-- V180 of 95_test_vectors.md: `invalid class`. -/
theorem test_invalidClass3 :
    kindOf (dispatch 0xC000#16 (mk 0x5A#8 0x123 [0x010] [(0x03, 0x05#8)])) = some .invalidInstructionClass := by
  decide

/-! ### The ports (R40, R42, R221). -/

theorem test_ports_of_a_fault :
    ports (mk 0x5A#8 0x123 [] []) (dispatch 0x0008#16 (mk 0x5A#8 0x123 [] [])) =
      some ⟨3, none, some 4, true, 0x123⟩ := by decide
theorem test_ports_of_an_exit :
    ports (mk 0x11#8 0x003 [] []) (dispatch 0x342A#16 (mk 0x11#8 0x003 [] [])) =
      some ⟨2, some 0x2A#8, none, false, 0x003⟩ := by decide

/-! ### The accesses of R59. -/

theorem test_accesses_of_clrw :
    dispatchAccesses 0x0155#16 (mk 0x00#8 0x000 [] []) = [.read 0x55#7, .read 0x03#7, .write 0x03#7] := by decide
theorem test_accesses_of_retfie :
    dispatchAccesses 0x0009#16 (mk 0x00#8 0x000 [0x010] []) = [.read 0x0B#7, .write 0x0B#7] ∧
    dispatchAccesses 0x0009#16 (mk 0x00#8 0x000 [] []) = [] := by decide

/-! ### Ends of a run (R248; the missing word is log entry 7). -/

theorem test_run_ends_in_standby :
    runFor 2 (State.reset.withFetchWord 16 0x0063) =
      .standby { State.reset.withFetchWord 16 0x0063 with pc := 1, signal := .standby } := by decide
theorem test_run_is_stuck_without_a_word : runFor 1 State.reset = .stuck State.reset := by decide
theorem test_run_ends_faulted :
    runFor 1 (State.reset.withFetchWord 16 0x0008) = .faulted .stackEmpty (State.reset.withFetchWord 16 0x0008) := by decide

/-! ### Witnesses: a concrete state and operands for the hypotheses of each statement. -/

/-- A busy session: two return addresses, flags set, a register, and SLEEP then NOP in the image at `PC`. -/
def busy : State :=
  { State.create Config.default 0x5A#8 [(0x03, 0x85#8), (0x0B, 0x01#8), (0x20, 0xA5#8)] [(0x123, 0x0063#16), (0x124, 0x0000#16)] with
    pc := 0x123, stack := [0x010, 0x7FF] }

/-- The same with an empty stack and nothing in the image. -/
def idle : State := { busy with stack := [], program := [] }

/-- The same with a full stack. -/
def brim : State := { busy with stack := [1, 2, 3, 4, 5, 6, 7, 0x7FF] }

/-- The same with the alternative rotate carry. -/
def literalCarry : State := { busy with config := { Config.default with rotateCarryLiteral := true } }

/-- The same after EXIT(0x2A). -/
def exited : State := { idle with running := false, signal := .exit 0x2A#8 }

/-- The same after SLEEP. -/
def asleep : State := { busy with pc := 0x124, signal := .standby }

/-- A session with other parameters than the defaults. -/
def otherConfig : Config :=
  { pcWidth := 13, stackDepth := 1, statusAddr := 0x7F#7, cBit := 7, dcBit := 0, zBit := 4, intconAddr := 0x00#7, gieBit := 3,
    rotateCarryLiteral := false }

theorem witness_DecodeInvertsEncode :
    (Instr.invalidC0 0x7F#7).wellFormed = true ∧ (Instr.addwf 0x7F#7 .f).wellFormed = true ∧
    (Instr.call 0x7FF#11).wellFormed = true := by decide
theorem witness_DecodeTakesTheOneMatchingRow :
    (⟨0x3E00, 0xFE00⟩ : OpcodeRow) ∈ opcodeRows ∧ (⟨0x3E00, 0xFE00⟩ : OpcodeRow).fits 0x3FFF#16 = true := by decide
theorem witness_StepRunsTheDecodedInstruction : busy.Live ∧ busy.program.lookup busy.pc = some 0x0063#16 := by decide
theorem witness_PlacedWordRunsNext : idle.Live ∧ 0x124 ≠ idle.pc := by decide
theorem witness_NoStepWhereTheSpecGivesNone :
    (idle.Live ∧ idle.program.lookup idle.pc = none) ∧ exited.running = false ∧ asleep.signal ≠ .ok := by decide
theorem witness_OutcomePortsCarryTheirCodes :
    busy.signal = .ok ∧ asleep.signal = .standby ∧ exited.signal = .exit 0x2A#8 := by decide
theorem witness_FaultsAreExactlyTheSpecified :
    faultOf .ret busy = none ∧ faultOf .ret idle = some .stackEmpty ∧ faultOf (.call 0#11) brim = some .stackFull := by decide
theorem witness_FaultingDispatchReportsAndKeepsState :
    dispatch 0x4000#16 busy = .fault .invalidInstructionClass ∧ dispatch 0x3B00#16 busy = .fault .invalidInstruction ∧
    dispatch 0x2000#16 brim = .fault .stackFull ∧ dispatch 0x0008#16 idle = .fault .stackEmpty := ⟨rfl, rfl, rfl, rfl⟩
theorem witness_InvalidClassWordsFault : 3 < (0x4000#16).toNat / 2 ^ 12 ∧ ¬ 3 < (0x3FFF#16).toNat / 2 ^ 12 := by decide
theorem witness_InvalidClassZeroWordsFault :
    decode 0x0001#16 = .invalidC0 0x01#7 ∧ decode 0x007F#16 = .invalidC0 0x7F#7 := by decide
theorem witness_InvalidLiteralWordsFault :
    decode 0x3B00#16 = .invalidL ∧ decode 0x3BFF#16 = .invalidL ∧ decode 0x3AFF#16 ≠ .invalidL ∧ decode 0x3C00#16 ≠ .invalidL := by
  decide
theorem witness_MovwfStoresW : busy.Inv := by decide
theorem witness_ClearsWriteZeroAndZ : busy.Inv := by decide
theorem witness_SubwfResultFlagsFrame : busy.Inv := by decide
theorem witness_AddwfResultFlagsFrame : busy.Inv := by decide
theorem witness_DecfIncfResultZFrame : busy.Inv := by decide
theorem witness_LogicWithWResultZFrame : busy.Inv := by decide
theorem witness_MovfComfResultZFrame : busy.Inv := by decide
theorem witness_SkipIfZeroResultAndAdvance : busy.Inv := by decide
theorem witness_SwapfSwapsNibbles : busy.Inv := by decide
theorem witness_BcfBsfWriteOneBit : busy.Inv := by decide
theorem witness_GotoJumps : busy.Inv := by decide
theorem witness_SublwResultFlagsFrame : busy.Inv := by decide
theorem witness_AddlwResultFlagsFrame : busy.Inv := by decide
theorem witness_LiteralLogicResultZFrame : busy.Inv := by decide
theorem witness_NextPcFollowsTheTable : busy.Inv := by decide
theorem witness_ReturnPopsPc : (busy.Inv ∧ busy.stack = [0x010] ++ [0x7FF]) ∧ idle.stack = [] := by decide
theorem witness_RetfiePopsPcAndSetsGie :
    (busy.Inv ∧ busy.stack = [0x010] ++ [0x7FF] ∧ 0x03#7 ≠ busy.config.intconAddr) ∧ idle.stack = [] := by decide
theorem witness_RotatesThroughCarry : busy.Inv ∧ busy.config.rotateCarryLiteral = false := by decide
theorem witness_RotatesWithLiteralCarry : literalCarry.Inv ∧ literalCarry.config.rotateCarryLiteral = true := by decide
theorem witness_RotateLaws :
    busy.Inv ∧ busy.config.rotateCarryLiteral = false ∧ 0x20#7 ≠ busy.config.statusAddr := by decide
theorem witness_CallPushesAndJumps :
    busy.Inv ∧ busy.stack.length < busy.config.stackDepth ∧ brim.Inv ∧ brim.stack.length = brim.config.stackDepth := by decide
theorem witness_CallAndReturnPair :
    busy.Inv ∧ busy.stack.length < busy.config.stackDepth ∧
    ∃ t u : State, exec (.call 0x100#11) busy = .next t ∧ u.config = busy.config ∧ u.stack = t.stack :=
  ⟨by decide, by decide, _, { busy with stack := [0x010, 0x7FF, 0x124] }, rfl, rfl, rfl⟩
theorem witness_RetlwReturnsOrExits : (busy.Inv ∧ busy.stack = [0x010] ++ [0x7FF]) ∧ idle.stack = [] := by decide
theorem witness_SetFlagChangesOneBit : busy.Inv ∧ 0x20#7 ≠ busy.config.statusAddr := by decide
theorem witness_PushPopAndPredicates :
    brim.stack.length = brim.config.stackDepth ∧ busy.stack.length ≠ busy.config.stackDepth ∧ idle.stack = [] ∧
    busy.stack = [0x010] ++ [0x7FF] := by decide
theorem witness_CallStackLaws :
    (idle.stack = [] ∧ [1, 2, 3, 4, 5, 6, 7, 8].length = idle.config.stackDepth) ∧
    busy.stack.length + 2 ≤ busy.config.stackDepth ∧
    busy.push 0x124 = some { busy with stack := [0x010, 0x7FF, 0x124] } := by decide
theorem witness_RegisterFileIsPlainStorage : busy.Inv ∧ 0x21#7 ≠ 0x20#7 := by decide
theorem witness_RegisterFilesReadingAlikeAreEqual :
    (Memory.write [(0x20, 0x01#8)] 0x03 0x02#8).wf = true ∧ (Memory.write [(0x03, 0x02#8)] 0x20 0x01#8).wf = true ∧
    ∀ a : RegAddr, Memory.read (Memory.write [(0x20, 0x01#8)] 0x03 0x02#8) a.toNat =
      Memory.read (Memory.write [(0x03, 0x02#8)] 0x20 0x01#8) a.toNat := by decide
theorem witness_SessionStartsAsSpecified :
    otherConfig.Legal ∧ Memory.wf [(0x7F, 0xFF#8)] = true ∧ Program.wf [(0, 0x0000#16), (1, 0x3400#16)] = true := by decide
theorem witness_StepKeepsLegalStates : busy.Inv ∧ ∃ t, step busy = .next t := ⟨by decide, _, rfl⟩
theorem witness_RunsEndAsSpecified : (busy.Inv ∧ busy.Live) ∧ idle.Inv ∧ idle.Live := by decide
theorem witness_StandbyResumesAtTheNextWord : busy.running = true ∧ busy.program.lookup 0x124 = some 0x0000#16 := by decide
theorem witness_ControlBytesChangeOnlyAsTabled :
    busy.Inv ∧ (∃ t, exec (.addwf 0x20#7 .f) busy = .next t) ∧
    dataDest (.addwf 0x20#7 .f) ≠ some busy.config.statusAddr ∧ (flagsWritten (.addwf 0x20#7 .f)).spares busy.config 7 ∧
    Instr.addwf 0x20#7 .f ≠ .retfie ∧ dataDest (.addwf 0x20#7 .f) ≠ some busy.config.intconAddr :=
  ⟨by decide, ⟨_, rfl⟩, by decide, ⟨by decide, by decide, by decide⟩, by decide, by decide⟩
theorem witness_ResultsDependOnlyOnRegistersRead :
    busy.Inv ∧ Memory.wf [(0x03, 0x85#8), (0x20, 0xA5#8), (0x55, 0x01#8)] = true ∧
    (∃ t, exec (.addwf 0x20#7 .f) busy = .next t) ∧
    ∀ a : RegAddr, RfAccess.read a ∈ rfAccesses busy.config (.addwf 0x20#7 .f) →
      busy.memRead a = Memory.read [(0x03, 0x85#8), (0x20, 0xA5#8), (0x55, 0x01#8)] a.toNat :=
  ⟨by decide, by decide, ⟨_, rfl⟩, by decide⟩
theorem witness_StackChangesOnlyByCallAndReturns :
    (∃ t, exec (.call 0x7FF#11) busy = .next t) ∧ (∃ t, exec .ret busy = .next t) ∧ ∃ t, exec .nop busy = .next t :=
  ⟨⟨_, rfl⟩, ⟨_, rfl⟩, ⟨_, rfl⟩⟩
theorem witness_WConfigAndImageFrame :
    (∃ t, exec (.movwf 0x20#7) busy = .next t) ∧ writesW (.movwf 0x20#7) = false ∧
    (∃ t, exec (.retlw 0xFF#8) idle = .next t) ∧ Exits (.retlw 0xFF#8) idle :=
  ⟨⟨_, rfl⟩, rfl, ⟨_, rfl⟩, ⟨_, rfl, rfl⟩⟩
theorem witness_RunningIsClearedByExitAndNeverRead :
    ((∃ t, exec (.retlw 0x00#8) idle = .next t) ∧ Exits (.retlw 0x00#8) idle) ∧
    ((∃ t, exec (.retlw 0x00#8) busy = .next t) ∧ ¬ Exits (.retlw 0x00#8) busy) ∧
    exec .retfie idle = .fault .stackEmpty ∧ exited.running = false :=
  ⟨⟨⟨_, rfl⟩, ⟨_, rfl, rfl⟩⟩, ⟨⟨_, rfl⟩, fun ⟨_, _, h⟩ => by cases h⟩, rfl, rfl⟩

end Sys2Proof.Machine
end

section
/-! SUPPORT. The run flag as an input of the dispatch (R32): every executor but the exit commutes with an overwritten
`running`, so that flag is neither read nor changed by it. -/

namespace Sys2Proof.Machine

section Running

variable (s : State) (b : Bool)

/-- The state with another value of the run flag. -/
def State.withRunning : State := { s with running := b }

/-- The answer of a dispatch with another value of the run flag in the next state, if there is one. -/
def overwriteRunning : DispatchResult → DispatchResult
  | .next t => .next (t.withRunning b)
  | .fault k => .fault k
  | .refused r => .refused r

/-! ### The shared operations and ends. -/

theorem State.pop_withRunning : (s.withRunning b).pop = s.pop.map fun p => (p.1, p.2.withRunning b) := by
  rcases s.pop_cases with ⟨h, hp⟩ | ⟨e, rest, h, hp⟩
  · rw [hp, State.pop_empty (s := s.withRunning b) h]; rfl
  · rw [hp, State.pop_concat (s := s.withRunning b) h]; rfl

theorem State.push_withRunning (v : Nat) : (s.withRunning b).push v = (s.push v).map (·.withRunning b) := by
  rcases s.push_cases v with ⟨h, hp⟩ | ⟨h, hp⟩
  · rw [hp, State.push_full (s := s.withRunning b) h]; rfl
  · rw [hp, State.push_room (s := s.withRunning b) h]; rfl

theorem State.writeDest_withRunning (f : RegAddr) (d : Dest) (v : Byte) :
    (s.withRunning b).writeDest f d v = (s.writeDest f d v).withRunning b := by
  cases d <;> rfl

theorem finishZ_withRunning (f : RegAddr) (d : Dest) (res : Word) :
    finishZ f d res (s.withRunning b) = overwriteRunning b (finishZ f d res s) := by
  rw [finishZ, State.writeDest_withRunning]; rfl

theorem finishSkipIfZero_withRunning (f : RegAddr) (d : Dest) (res : Word) :
    finishSkipIfZero f d res (s.withRunning b) = overwriteRunning b (finishSkipIfZero f d res s) := by
  rw [finishSkipIfZero, State.writeDest_withRunning]; rfl

theorem finishRotate_withRunning (f : RegAddr) (d : Dest) (res : Word) (cout : Bool) :
    finishRotate f d res cout (s.withRunning b) = overwriteRunning b (finishRotate f d res cout s) := by
  rw [finishRotate, State.writeDest_withRunning]; rfl

/-! ### RETLW on an empty stack and on a nonempty one. -/

variable {s} {i : Instr}

theorem execRetlw_of_stack_empty (k : Byte) (h : s.stack = []) : execRetlw k s = signalExit k s.stopRunning := by
  rw [execRetlw, State.pop_empty h]

theorem execRetlw_withRunning (k : Byte) (h : s.stack ≠ []) :
    execRetlw k (s.withRunning b) = overwriteRunning b (execRetlw k s) := by
  rw [execRetlw, State.pop_withRunning, execRetlw]
  rcases s.pop_cases with ⟨he, -⟩ | ⟨e, rest, -, hp⟩
  · exact absurd he h
  · rw [hp]; rfl

/-! ### The dispatch. -/

/-- The exit clears the run flag, whatever it was. -/
theorem exec_of_exits (h : Exits i s) :
    ∃ t, exec i s = .next t ∧ t.running = false ∧ ∀ b, exec i (s.withRunning b) = .next t := by
  obtain ⟨k, rfl, hs⟩ := h
  exact ⟨_, execRetlw_of_stack_empty k hs, rfl, fun b => execRetlw_of_stack_empty (s := s.withRunning b) k hs⟩

/-- Apart from the exit, an overwritten run flag reaches the next state and nothing else. -/
theorem exec_withRunning (h : ¬ Exits i s) : exec i (s.withRunning b) = overwriteRunning b (exec i s) := by
  cases i with
  | ret | retfie =>
    simp only [exec, execReturn, execRetfie, State.pop_withRunning]
    cases s.pop <;> rfl
  | call k =>
    have hp : (s.withRunning b).push (s.withRunning b).returnAddr = (s.push s.returnAddr).map (·.withRunning b) :=
      State.push_withRunning s b s.returnAddr
    simp only [exec, execCall, hp]
    cases s.push s.returnAddr <;> rfl
  | retlw k => exact execRetlw_withRunning b k fun hs => h ⟨k, rfl, hs⟩
  | decf f d | iorwf f d | andwf f d | xorwf f d | movf f d | comf f d | incf f d =>
    exact finishZ_withRunning s b f d _
  | decfsz f d | incfsz f d => exact finishSkipIfZero_withRunning s b f d _
  | rlf f d | rrf f d => exact finishRotate_withRunning s b f d _ _
  | addwf f d | subwf f d | swapf f d =>
    simp only [exec, execAddwf, execSubwf, execSwapf, State.writeDest_withRunning]
    rfl
  | nop | sleep | invalidC0 | movwf | clrw | clrf | bcf | bsf | btfsc | btfss | goto | movlw | iorlw | andlw | xorlw
  | invalidL | sublw | addlw | invalidClass1 | invalidClass2 | invalidClass3 => rfl

/-- Apart from the exit no instruction changes the run flag: overwriting it with its own value changes no answer. -/
theorem exec_running_of_not_exits {t : State} (h : ¬ Exits i s) (ht : exec i s = .next t) : t.running = s.running := by
  have e : exec i s = overwriteRunning s.running (exec i s) := exec_withRunning s.running h
  rw [ht] at e
  have et : t = t.withRunning s.running := Host.Outcome.next.inj e
  rw [et]; rfl

theorem exec_withRunning_fault {k : Fault} (h : exec i s = .fault k) : exec i (s.withRunning b) = .fault k := by
  by_cases he : Exits i s
  · obtain ⟨t, ht, -⟩ := exec_of_exits he
    cases ht.symm.trans h
  · rw [exec_withRunning b he, h]; rfl

theorem step_of_not_live (h : ¬ s.Live) : step s = .refused .runEnded := by
  rcases step_cases s with ⟨-, hr⟩ | ⟨hl, -⟩ | ⟨hl, -⟩
  · exact hr
  · exact absurd hl h
  · exact absurd hl h

end Running

/-- Settles O59: the exit is the one dispatch that does not carry an overwritten `running` through (`exec_withRunning`), and
its answer is the same for every value of it. -/
theorem runningIsClearedByExitAndNeverRead : Obligations.RunningIsClearedByExitAndNeverRead := by
  intro i s b
  refine ⟨fun t ht he => ?_, fun t ht he => ⟨exec_running_of_not_exits he ht, ?_⟩,
    fun k hk => exec_withRunning_fault b hk, fun hr => step_of_not_live fun ⟨hrun, _⟩ => ?_⟩
  · obtain ⟨u, hu, hrun, hb⟩ := exec_of_exits he
    cases hu.symm.trans ht
    exact ⟨hrun, hb b⟩
  · exact (exec_withRunning b he).trans (congrArg (overwriteRunning b) ht)
  · rw [hrun] at hr; cases hr

end Sys2Proof.Machine
end

section
/-! PROOFS. The flag write of R106. -/

namespace Sys2Proof.Machine

/-- A flag write replaces the register file and no other component. -/
theorem State.setFlag_eq_with_rf (s : State) (b : Fin 8) (v : Bool) :
    s.setFlag b v = { s with rf := (s.setFlag b v).rf } := rfl

/-- Settles O41: the port laws of `setFlag` give the status byte bit by bit and the frame of the other registers; the new
register file is the only component replaced. -/
theorem setFlagChangesOneBit : Obligations.SetFlagChangesOneBit := by
  rintro s b v ⟨-, hwf, -⟩
  exact ⟨State.status_setFlag hwf b v, fun _ ha => State.memRead_setFlag_ne hwf b v ha,
    _, State.setFlag_eq_with_rf s b v⟩

end Sys2Proof.Machine
end

section
/-! PROOFS. The decoder on class 0: which words it makes INVALID_C0 (R126). -/

namespace Sys2Proof

/-- The masks of R77 select the values R126 excludes. -/
theorem and_0x7E_eq_0x08_iff (f : RegAddr) : f &&& 0x7E#7 = 0x08#7 ↔ f = 0x08#7 ∨ f = 0x09#7 := by
  revert f; decide

theorem and_0x1F_eq_zero_iff (f : RegAddr) : f &&& 0x1F#7 = 0#7 ↔ f.toNat % 32 = 0 := by
  rw [← BitVec.toNat_inj, BitVec.toNat_and]
  exact Eq.congr_left (Nat.and_two_pow_sub_one_eq_mod f.toNat 5)

/-- With `d = 0`, class 0, sub-opcode 0 by the values of `f` that R77's masks select. -/
theorem decodeC0Special_w (f : RegAddr) :
    decodeC0Special f .w =
      if f = 0x08#7 then .ret else if f = 0x09#7 then .retfie else if f = 0x63#7 then .sleep
      else if f.toNat % 32 ≠ 0 then .invalidC0 f else .nop := by
  simp only [decodeC0Special, and_0x7E_eq_0x08_iff, ne_eq, and_0x1F_eq_zero_iff]
  by_cases h8 : f = 0x08#7 <;> by_cases h9 : f = 0x09#7 <;> simp [h8, h9]

/-- With `d = 0`, class 0, sub-opcode 0 is INVALID_C0 where R126's selection line holds. -/
theorem decodeC0Special_w_eq_invalidC0_iff (f g : RegAddr) :
    decodeC0Special g .w = .invalidC0 f ↔
      g = f ∧ g ≠ 0x08#7 ∧ g ≠ 0x09#7 ∧ g ≠ 0x63#7 ∧ g.toNat % 32 ≠ 0 := by
  rw [decodeC0Special_w]
  split_ifs with h8 h9 h63 h0
  · simp [h8]
  · simp [h9]
  · simp [h63]
  · simp [h8, h9, h63, h0]
  · simp [h0]

/-- A chain of tests misses a value that each of its answers misses. -/
theorem Instr.ite_ne {p : Prop} [Decidable p] {i j k : Instr} (hi : i ≠ k) (hj : j ≠ k) : (if p then i else j) ≠ k := by
  split <;> assumption

/-- No other sub-opcode of class 0 gives INVALID_C0. -/
theorem decodeClass0_eq_invalidC0_iff (op : BitVec 4) (g : RegAddr) (d : Dest) (f : RegAddr) :
    decodeClass0 op g d = .invalidC0 f ↔ op = 0#4 ∧ decodeC0Special g d = .invalidC0 f := by
  by_cases h : op = 0#4
  · simp [decodeClass0, h]
  · simp only [decodeClass0, h, if_false, false_and, iff_false]
    cases d <;> repeat' apply Instr.ite_ne
    all_goals exact Instr.noConfusion

theorem decodeClass1_ne_invalidC0 (op : BitVec 2) (g : RegAddr) (b : BitVec 3) (f : RegAddr) :
    decodeClass1 op g b ≠ .invalidC0 f := by
  repeat' apply Instr.ite_ne
  all_goals exact Instr.noConfusion

theorem decodeClass2_ne_invalidC0 (g : Bool) (k : BitVec 11) (f : RegAddr) : decodeClass2 g k ≠ .invalidC0 f := by
  repeat' apply Instr.ite_ne
  all_goals exact Instr.noConfusion

theorem decodeClass3_ne_invalidC0 (op : BitVec 4) (k : Byte) (f : RegAddr) : decodeClass3 op k ≠ .invalidC0 f := by
  repeat' apply Instr.ite_ne
  all_goals exact Instr.noConfusion

theorem decodeInvalidClass_ne_invalidC0 (t : BitVec 2) (f : RegAddr) : decodeInvalidClass t ≠ .invalidC0 f := by
  repeat' apply Instr.ite_ne
  all_goals exact Instr.noConfusion

/-- Only a word of class 0, sub-opcode 0, `d = 0` decodes to INVALID_C0. -/
theorem eq_formatA_of_decode_eq_invalidC0 {x : Word} {f : RegAddr} (h : decode x = .invalidC0 f) :
    x = formatA 0x0 .w f := by
  rcases word_formats x with ⟨op, d, g, rfl⟩ | ⟨op, b, g, rfl⟩ | ⟨g, k, rfl⟩ | ⟨op, k, rfl⟩ | ⟨t, y, ht, rfl⟩
  · rw [decode_formatA, decodeClass0_eq_invalidC0_iff] at h
    obtain ⟨rfl, h⟩ := h
    cases d with
    | f => cases h
    | w => rw [← ((decodeC0Special_w_eq_invalidC0_iff f g).1 h).1]; rfl
  · exact (decodeClass1_ne_invalidC0 _ _ _ _ (decode_formatB _ _ _ ▸ h)).elim
  · exact (decodeClass2_ne_invalidC0 _ _ _ (decode_formatC _ _ ▸ h)).elim
  · exact (decodeClass3_ne_invalidC0 _ _ _ (decode_formatL _ _ ▸ h)).elim
  · exact (decodeInvalidClass_ne_invalidC0 _ _ (decode_top ht y ▸ h)).elim

theorem decode_formatA_zero_w_eq_invalidC0_iff (f : RegAddr) :
    decode (formatA 0x0 .w f) = .invalidC0 f ↔
      f ≠ 0x08#7 ∧ f ≠ 0x09#7 ∧ f ≠ 0x63#7 ∧ f.toNat % 32 ≠ 0 := by
  rw [decode_formatA, decodeClass0_eq_invalidC0_iff, decodeC0Special_w_eq_invalidC0_iff]
  simp

/-- Settles O13: a word that decodes to INVALID_C0 is the word of format A with its `f`, and there the decoder's masks are
R126's selection line. -/
theorem invalidClassZeroWordsFault : Obligations.InvalidClassZeroWordsFault := by
  refine ⟨fun x f => ⟨fun h => ?_, ?_⟩, fun f s => ⟨rfl, rfl⟩⟩
  · have hx := eq_formatA_of_decode_eq_invalidC0 h
    exact ⟨hx, (decode_formatA_zero_w_eq_invalidC0_iff f).1 (hx ▸ h)⟩
  · rintro ⟨rfl, hf⟩
    exact (decode_formatA_zero_w_eq_invalidC0_iff f).2 hf

end Sys2Proof
end

section
/-! PROOFS. NOP and MOVWF (R125, R121). -/

namespace Sys2Proof.Machine

/-- Settles O15: the four words are decoded one by one; `execNop` is the advance and the OK signal by definition. -/
theorem nopOnlyAdvances : Obligations.NopOnlyAdvances :=
  ⟨by decide, fun _ => rfl⟩

/-- Settles O16: one port write, read back by `memRead_memWrite`. -/
theorem movwfStoresW : Obligations.MovwfStoresW := by
  rintro f s ⟨-, hwf, -⟩
  refine ⟨decode_formatA 0x0#4 .f f, _, rfl, rfl, advanced_finish 1 rfl rfl rfl rfl rfl, fun a => ?_⟩
  simp only [State.memRead_setSignal, State.memRead_adv, State.memRead_memWrite hwf, eq_comm (a := f)]

end Sys2Proof.Machine
end

section
/-! PROOFS. The carry vectors in closed form (R111, R112): the XOR identity of R107 and R108 leaves the carries of the 16-bit
addition, and a subtraction is the addition of the negated subtrahend. -/

namespace Sys2Proof.Machine

/-- The XOR identity: what the operands' bits leave of a sum's bit is the carry into it. -/
theorem getLsbD_carryVector_add (x y : Word) {i : Nat} (hi : i < 16) :
    (carryVector (x + y) x y).getLsbD i = BitVec.carry i x y false := by
  rw [carryVector, BitVec.getLsbD_xor, BitVec.getLsbD_xor, BitVec.getLsbD_add hi]
  cases x.getLsbD i <;> cases y.getLsbD i <;> simp

/-- The carry into bit `i`, as a sum of the operands' lower bits. -/
theorem carry_false (i : Nat) (x y : Word) :
    BitVec.carry i x y false = decide (2 ^ i ≤ x.toNat % 2 ^ i + y.toNat % 2 ^ i) := by
  simp [BitVec.carry]

theorem toNat_zext16 (v : Byte) : (zext16 v).toNat = v.toNat :=
  BitVec.toNat_setWidth_of_le (by decide)

theorem toNat_neg16_zext16 (v : Byte) : (neg16 (zext16 v)).toNat = (2 ^ 16 - v.toNat) % 2 ^ 16 := by
  simp [neg16, toNat_zext16]

/-- A 16-bit difference is a sum with the negated subtrahend (R108). -/
theorem diff16_eq_add_neg16 (x y : Byte) : diff16 x y = zext16 x + neg16 (zext16 y) := by
  simp [diff16, neg16, BitVec.sub_eq_add_neg]

theorem getLsbD_addVector (x y : Byte) {i : Nat} (hi : i < 16) :
    (addVector x y (sum16 x y)).getLsbD i = decide (2 ^ i ≤ x.toNat % 2 ^ i + y.toNat % 2 ^ i) := by
  rw [addVector, sum16, getLsbD_carryVector_add _ _ hi, carry_false, toNat_zext16, toNat_zext16]

theorem getLsbD_subVector (x y : Byte) {i : Nat} (hi : i < 16) :
    (subVector x y (diff16 x y)).getLsbD i =
      decide (2 ^ i ≤ x.toNat % 2 ^ i + (2 ^ 16 - y.toNat) % 2 ^ 16 % 2 ^ i) := by
  rw [subVector, diff16_eq_add_neg16, getLsbD_carryVector_add _ _ hi, carry_false, toNat_zext16, toNat_neg16_zext16]

/-- C of an addition (R111). -/
theorem addVector_bit8 (x y : Byte) : (addVector x y (sum16 x y)).getLsbD 8 = addC x y := by
  rw [getLsbD_addVector x y (by decide), addC, decide_eq_decide]
  omega

/-- DC of an addition (R111). -/
theorem addVector_bit4 (x y : Byte) : (addVector x y (sum16 x y)).getLsbD 4 = addDC x y := by
  rw [getLsbD_addVector x y (by decide), addDC, decide_eq_decide]
  omega

/-- C of a subtraction (R112). -/
theorem subVector_bit8 (x y : Byte) : (subVector x y (diff16 x y)).getLsbD 8 = subC x y := by
  rw [getLsbD_subVector x y (by decide), subC, decide_eq_decide]
  omega

/-- DC of a subtraction (R112). -/
theorem subVector_bit4 (x y : Byte) : (subVector x y (diff16 x y)).getLsbD 4 = subDC x y := by
  rw [getLsbD_subVector x y (by decide), subDC, decide_eq_decide]
  omega

/-- The flags of an addition are the bits of its carry vector and the zero test (R107, R109). -/
theorem addWrites_eq (x y : Byte) :
    addWrites x y =
      { dc := some ((addVector x y (sum16 x y)).getLsbD 4), c := some ((addVector x y (sum16 x y)).getLsbD 8),
        z := some (decide (x + y = 0#8)) } := by
  rw [addVector_bit4, addVector_bit8, addWrites]

/-- The flags of a subtraction are the bits of its carry vector and the zero test (R108, R109). -/
theorem subWrites_eq (x y : Byte) :
    subWrites x y =
      { dc := some ((subVector x y (diff16 x y)).getLsbD 4), c := some ((subVector x y (diff16 x y)).getLsbD 8),
        z := some (decide (x - y = 0#8)) } := by
  rw [subVector_bit4, subVector_bit8, subWrites]

end Sys2Proof.Machine
end

section
/-! PROOFS. Class 0, sub-opcodes 1 to 0xF (R127 to R138, R141, R142). Each word is one of format A; each instruction is one
shared end at a 16-bit intermediate, whose truncation is the 8-bit result of the statement. -/

namespace Sys2Proof.Machine

section Ends

variable {s : State} {res : Word} {r : Byte}

theorem finishZ_effect_of_trunc8 (hi : s.Inv) (f : RegAddr) (d : Dest) (hr : trunc8 res = r) :
    ∃ t, finishZ f d res s = .next t ∧ AluEffect f d r (zOnly r) 1 s t :=
  hr ▸ finishZ_effect hi f d res

theorem finishSkipIfZero_effect_of_trunc8 (hi : s.Inv) (f : RegAddr) (d : Dest) (hr : trunc8 res = r) :
    ∃ t, finishSkipIfZero f d res s = .next t ∧ AluEffect f d r {} (if r = 0#8 then 2 else 1) s t :=
  hr ▸ finishSkipIfZero_effect hi f d res

/-- Destination, the carries of a carry vector, Z, advance, at a known 8-bit result and known flags. -/
theorem carries_effect_of_trunc8 (hi : s.Inv) (f : RegAddr) (d : Dest) {cv : Word} {fl : FlagWrites} (hr : trunc8 res = r)
    (hfl : fl = { dc := some (cv.getLsbD 4), c := some (cv.getLsbD 8), z := some (decide (r = 0#8)) }) :
    ∃ t, finish ((((s.writeDest f d (trunc8 res)).setCarries cv).setZ res).adv 1) = .next t ∧ AluEffect f d r fl 1 s t := by
  subst hr hfl
  exact ⟨_, rfl, carries_effect hi f d res cv⟩

/-- Destination, no flag, `Adv(n)`. -/
theorem finish_writeDest_effect (hi : s.Inv) (f : RegAddr) (d : Dest) (r : Byte) (n : Nat) :
    ∃ t, finish ((s.writeDest f d r).adv n) = .next t ∧ AluEffect f d r {} n s t :=
  ⟨_, rfl, (Wrote.of_writeDest hi.2.1).finish n, advanced_finish n (by simp) (by simp) (by simp) (by simp) (by simp)⟩

end Ends

/-- Settles O20: both clears are `finishZ` at 0; with `d = 0` the register named plays no part. -/
theorem clearsWriteZeroAndZ : Obligations.ClearsWriteZeroAndZ :=
  ⟨fun f _ hi => ⟨decode_formatA 0x1#4 .f f, finishZ_effect hi f .f 0#16⟩,
    fun x _ hi => ⟨decode_formatA 0x1#4 .w x, finishZ_effect hi x .w 0#16⟩⟩

/-- Settles O21, by the closed form of the subtraction's carry vector (`subWrites_eq`). -/
theorem subwfResultFlagsFrame : Obligations.SubwfResultFlagsFrame :=
  fun f d s hi => ⟨decode_formatA 0x2#4 d f,
    carries_effect_of_trunc8 hi f d (trunc8_diff16 (s.memRead f) s.w) (subWrites_eq (s.memRead f) s.w)⟩

/-- Settles O22, by the closed form of the addition's carry vector (`addWrites_eq`). -/
theorem addwfResultFlagsFrame : Obligations.AddwfResultFlagsFrame :=
  fun f d s hi => ⟨decode_formatA 0x7#4 d f,
    carries_effect_of_trunc8 hi f d (trunc8_sum16 (s.memRead f) s.w) (addWrites_eq (s.memRead f) s.w)⟩

/-- Settles O23: `finishZ` at the 16-bit difference and sum with 1. -/
theorem decfIncfResultZFrame : Obligations.DecfIncfResultZFrame :=
  fun f d s hi =>
    ⟨⟨decode_formatA 0x3#4 d f, finishZ_effect_of_trunc8 hi f d (trunc8_diff16 (s.memRead f) 1#8)⟩,
      decode_formatA 0xA#4 d f, finishZ_effect_of_trunc8 hi f d (trunc8_sum16 (s.memRead f) 1#8)⟩

/-- Settles O24: `finishZ` at the zero-extended bitwise result, which truncation gives back. -/
theorem logicWithWResultZFrame : Obligations.LogicWithWResultZFrame :=
  fun f d _ hi =>
    ⟨⟨decode_formatA 0x4#4 d f, finishZ_effect_of_trunc8 hi f d (trunc8_zext16 _)⟩,
      ⟨decode_formatA 0x5#4 d f, finishZ_effect_of_trunc8 hi f d (trunc8_zext16 _)⟩,
      decode_formatA 0x6#4 d f, finishZ_effect_of_trunc8 hi f d (trunc8_zext16 _)⟩

/-- Settles O25: as the logic operations, at `F[f]` itself and at its complement, which the model writes as an XOR. -/
theorem movfComfResultZFrame : Obligations.MovfComfResultZFrame :=
  fun f d s hi =>
    ⟨⟨decode_formatA 0x8#4 d f, finishZ_effect_of_trunc8 hi f d (trunc8_zext16 _)⟩,
      decode_formatA 0x9#4 d f,
      finishZ_effect_of_trunc8 hi f d ((trunc8_zext16 _).trans (not8_eq (s.memRead f)))⟩

theorem byte_sub_one_eq_zero_iff (v : Byte) : v - 1#8 = 0#8 ↔ v = 1#8 := by bv_omega

theorem byte_add_one_eq_zero_iff (v : Byte) : v + 1#8 = 0#8 ↔ v = 0xFF#8 := by bv_omega

/-- Settles O26: `finishSkipIfZero` tests the result; it is 0 from 1 downwards and from 0xFF upwards only. -/
theorem skipIfZeroResultAndAdvance : Obligations.SkipIfZeroResultAndAdvance := by
  intro f d s hi
  simp only [← byte_sub_one_eq_zero_iff, ← byte_add_one_eq_zero_iff]
  exact ⟨⟨decode_formatA 0xB#4 d f, finishSkipIfZero_effect_of_trunc8 hi f d (trunc8_diff16 (s.memRead f) 1#8)⟩,
    decode_formatA 0xF#4 d f, finishSkipIfZero_effect_of_trunc8 hi f d (trunc8_sum16 (s.memRead f) 1#8)⟩

/-- The masks and shifts of R141 put the low nibble over the high one. -/
theorem swapNibbles_eq_append (v : Byte) : swapNibbles v = v.extractLsb' 0 4 ++ v.extractLsb' 4 4 := by
  apply BitVec.eq_of_getLsbD_eq
  intro i hi
  simp only [swapNibbles, lowNibble, BitVec.getLsbD_or, BitVec.getLsbD_append, BitVec.getLsbD_extractLsb']
  interval_cases i <;> simp

/-- Settles O30: the swapped nibbles go to the destination and no flag follows. -/
theorem swapfSwapsNibbles : Obligations.SwapfSwapsNibbles := by
  intro f d s hi
  rw [← swapNibbles_eq_append]
  exact ⟨decode_formatA 0xE#4 d f, finish_writeDest_effect hi f d (swapNibbles (s.memRead f)) 1⟩

end Sys2Proof.Machine
end

section
/-! PROOFS. Class 1 (R171 to R174). BCF and BSF are one port write of a masked byte; BTFSC and BTFSS are one skip. -/

namespace Sys2Proof.Machine

/-! ### One port write and an advance. -/

/-- A byte that differs from `F[f]` in bit `n` only, which is `c`, written to register `f`, then `Adv(1)`: no other bit of any
register, and not `W`, is changed. -/
theorem finish_memWrite_bit_effect {s : State} (hwf : s.rf.wf = true) (f : RegAddr) (v : Byte) (n : Nat) (c : Bool)
    (hv : ∀ i : Fin 8, v.getLsbD i.val = if i.val = n then c else (s.memRead f).getLsbD i.val) :
    ∃ t, finish ((s.memWrite f v).adv 1) = .next t ∧ t.w = s.w ∧ Advanced 1 s t ∧
      ∀ (a : RegAddr) (i : Fin 8),
        (t.memRead a).getLsbD i.val = if a = f ∧ i.val = n then c else (s.memRead a).getLsbD i.val := by
  refine ⟨_, rfl, rfl, advanced_finish 1 rfl rfl rfl rfl rfl, fun a i => ?_⟩
  rw [State.memRead_setSignal, State.memRead_adv, State.memRead_memWrite hwf]
  by_cases ha : a = f
  · simp only [ha, if_true, true_and, hv]
  · simp only [ha, Ne.symm ha, if_false, false_and]

/-! ### The masks of R171 and R172. -/

/-- The mask of a 3-bit index has that one bit. -/
theorem getLsbD_bitMask_toNat (b : BitVec 3) (i : Fin 8) : (bitMask b.toNat).getLsbD i.val = decide (i.val = b.toNat) :=
  (getLsbD_bitMask b.toFin i).trans (decide_eq_decide.2 Fin.ext_iff)

theorem getLsbD_and_not8_bitMask (x : Byte) (b : BitVec 3) (i : Fin 8) :
    (x &&& not8 (bitMask b.toNat)).getLsbD i.val = if i.val = b.toNat then false else x.getLsbD i.val := by
  rw [BitVec.getLsbD_and, getLsbD_not8, getLsbD_bitMask_toNat]
  by_cases h : i.val = b.toNat <;> simp [h]

theorem getLsbD_or_bitMask (x : Byte) (b : BitVec 3) (i : Fin 8) :
    (x ||| bitMask b.toNat).getLsbD i.val = if i.val = b.toNat then true else x.getLsbD i.val := by
  rw [BitVec.getLsbD_or, getLsbD_bitMask_toNat]
  by_cases h : i.val = b.toNat <;> simp [h]

/-- Settles O31: one port write of a byte that differs from `F[f]` in bit `b` only (`getLsbD_and_not8_bitMask`,
`getLsbD_or_bitMask`). -/
theorem bcfBsfWriteOneBit : Obligations.BcfBsfWriteOneBit := by
  rintro f b s ⟨-, hwf, -⟩
  exact ⟨⟨decode_formatB 0#2 b f,
      finish_memWrite_bit_effect hwf f _ b.toNat false (getLsbD_and_not8_bitMask (s.memRead f) b)⟩,
    decode_formatB 1#2 b f,
    finish_memWrite_bit_effect hwf f _ b.toNat true (getLsbD_or_bitMask (s.memRead f) b)⟩

/-! ### The skips. -/

/-- A dispatch that only skips changes `PC` and the outcome port. -/
theorem finish_advSkip_eq (s : State) (c : Bool) :
    finish (s.advSkip c) =
      .next { s with pc := (s.pc + if c = true then 2 else 1) % 2 ^ s.config.pcWidth, signal := .ok } := rfl

/-- Settles O32: both are `finish_advSkip_eq` at the tested bit, which BTFSC negates. -/
theorem btfscBtfssOnlySkip : Obligations.BtfscBtfssOnlySkip := by
  intro f b s
  refine ⟨⟨decode_formatB 2#2 b f, ?_⟩, decode_formatB 3#2 b f, finish_advSkip_eq s _⟩
  simp only [← Bool.not_eq_true']
  exact finish_advSkip_eq s (!(s.memRead f).getLsbD b.toNat)

end Sys2Proof.Machine
end

section
/-! PROOFS. Class 2 (R181, R182). CALL and GOTO share one end: `PC` at an absolute target, which needs no reduction in a legal
state (`State.Inv.target_mod`). -/

namespace Sys2Proof.Machine

/-- The end CALL and GOTO share: where the target needs no reduction, `PC` is the target itself. -/
theorem finish_setPc_target {s : State} {k : BitVec 11} (h : k.toNat % 2 ^ s.config.pcWidth = k.toNat) :
    finish (s.setPc (target k)) = .next { s with pc := k.toNat, signal := .ok } := by
  rw [finish, State.setPc, target, h]; rfl

/-- CALL on a stack with room (R181). -/
theorem execCall_of_room {s : State} (h : s.stack.length ≠ s.config.stackDepth) (k : BitVec 11) :
    execCall k s = finish (State.setPc { s with stack := s.stack ++ [s.returnAddr] } (target k)) := by
  rw [execCall, State.push_room h]

/-- CALL on a full stack (R181). -/
theorem execCall_of_full {s : State} (h : s.stack.length = s.config.stackDepth) (k : BitVec 11) :
    execCall k s = .fault .stackFull := by
  rw [execCall, State.push_full h]; rfl

/-- Settles O33: below capacity the push succeeds and leaves the shared end at the pushed state, whose parameters are the old
ones; at capacity the failed push is the whole dispatch. -/
theorem callPushesAndJumps : Obligations.CallPushesAndJumps := by
  intro k s hi
  refine ⟨decode_formatC 0#1 k, fun hroom => ?_, fun hfull => ?_⟩
  · exact (execCall_of_room hroom.ne k).trans (finish_setPc_target (hi.target_mod k))
  · have hx : exec (.call k) s = .fault .stackFull := execCall_of_full hfull k
    exact ⟨hx, congrArg (stateAfter s) hx⟩

/-- Settles O34: GOTO is the shared end alone. -/
theorem gotoJumps : Obligations.GotoJumps :=
  fun k _ hi => ⟨decode_formatC 1#1 k, finish_setPc_target (hi.target_mod k)⟩

end Sys2Proof.Machine
end

section
/-! PROOFS. The aliases of class 3: the sub-opcode tests of R81 mask the bits that R83 ignores. -/

namespace Sys2Proof

/-- A word whose top byte has selector 3 is decoded by its sub-opcode. -/
theorem decode_append_of_selector_three {p : BitVec 8} {op : BitVec 4} (hp : p = 0b0011#4 ++ op) (k : Byte) :
    decode (p ++ k) = decodeClass3 op k :=
  hp ▸ decode_formatL op k

theorem decodeClass3_of_and_0xC_eq_0x0 {op : BitVec 4} (h : op &&& 0xC#4 = 0x0#4) (k : Byte) :
    decodeClass3 op k = .movlw k := by
  simp [decodeClass3, h]

theorem decodeClass3_of_and_0xC_eq_0x4 {op : BitVec 4} (h : op &&& 0xC#4 = 0x4#4) (k : Byte) :
    decodeClass3 op k = .retlw k := by
  simp [decodeClass3, h]

/-- The three-bit mask of R81 fixes what its two-bit mask leaves. -/
theorem and_0xC_of_and_0xE {op c : BitVec 4} (h : op &&& 0xE#4 = c) : op &&& 0xC#4 = c &&& 0xC#4 := by
  rw [← h, BitVec.and_assoc]; rfl

theorem decodeClass3_of_and_0xE_eq_0xC {op : BitVec 4} (h : op &&& 0xE#4 = 0xC#4) (k : Byte) :
    decodeClass3 op k = .sublw k := by
  simp [decodeClass3, h, and_0xC_of_and_0xE h]

theorem decodeClass3_of_and_0xE_eq_0xE {op : BitVec 4} (h : op &&& 0xE#4 = 0xE#4) (k : Byte) :
    decodeClass3 op k = .addlw k := by
  simp [decodeClass3, h, and_0xC_of_and_0xE h]

theorem decode_movlw_alias (x : BitVec 2) (k : Byte) : decode (0b001100#6 ++ x ++ k) = .movlw k := by
  have hp : (0b001100#6 ++ x : BitVec 8) = 0b0011#4 ++ (0b00#2 ++ x) := by revert x; decide
  have hm : (0b00#2 ++ x : BitVec 4) &&& 0xC#4 = 0x0#4 := by revert x; decide
  exact (decode_append_of_selector_three hp k).trans (decodeClass3_of_and_0xC_eq_0x0 hm k)

theorem decode_retlw_alias (x : BitVec 2) (k : Byte) : decode (0b001101#6 ++ x ++ k) = .retlw k := by
  have hp : (0b001101#6 ++ x : BitVec 8) = 0b0011#4 ++ (0b01#2 ++ x) := by revert x; decide
  have hm : (0b01#2 ++ x : BitVec 4) &&& 0xC#4 = 0x4#4 := by revert x; decide
  exact (decode_append_of_selector_three hp k).trans (decodeClass3_of_and_0xC_eq_0x4 hm k)

theorem decode_sublw_alias (x : BitVec 1) (k : Byte) : decode (0b0011110#7 ++ x ++ k) = .sublw k := by
  have hp : (0b0011110#7 ++ x : BitVec 8) = 0b0011#4 ++ (0b110#3 ++ x) := by revert x; decide
  have hm : (0b110#3 ++ x : BitVec 4) &&& 0xE#4 = 0xC#4 := by revert x; decide
  exact (decode_append_of_selector_three hp k).trans (decodeClass3_of_and_0xE_eq_0xC hm k)

theorem decode_addlw_alias (x : BitVec 1) (k : Byte) : decode (0b0011111#7 ++ x ++ k) = .addlw k := by
  have hp : (0b0011111#7 ++ x : BitVec 8) = 0b0011#4 ++ (0b111#3 ++ x) := by revert x; decide
  have hm : (0b111#3 ++ x : BitVec 4) &&& 0xE#4 = 0xE#4 := by revert x; decide
  exact (decode_append_of_selector_three hp k).trans (decodeClass3_of_and_0xE_eq_0xE hm k)

end Sys2Proof
end

section
/-! PROOFS. Class 3 (R191 to R197). The arithmetic and logic operations are the class-0 ends with destination `W`, where the
register named plays no part; RETLW is split by the outcome of its pop. -/

namespace Sys2Proof.Machine

variable {s : State}

/-! ### Arithmetic and logic. -/

/-- `finishLiteralZ` at a known 8-bit result. -/
theorem finishLiteralZ_effect_of_trunc8 {res : Word} {r : Byte} (hi : s.Inv) (hr : trunc8 res = r) :
    ∃ t, finishLiteralZ res s = .next t ∧ LiteralEffect r (zOnly r) s t :=
  hr ▸ finishLiteralZ_effect hi res

/-- Settles O38, by the closed form of the subtraction's carry vector (`subWrites_eq`), `W` the subtrahend. -/
theorem sublwResultFlagsFrame : Obligations.SublwResultFlagsFrame :=
  ⟨decode_sublw_alias, fun k s hi =>
    carries_effect_of_trunc8 hi 0#7 .w (trunc8_diff16 k s.w) (subWrites_eq k s.w)⟩

/-- Settles O39, by the closed form of the addition's carry vector (`addWrites_eq`). -/
theorem addlwResultFlagsFrame : Obligations.AddlwResultFlagsFrame :=
  ⟨decode_addlw_alias, fun k s hi =>
    carries_effect_of_trunc8 hi 0#7 .w (trunc8_sum16 k s.w) (addWrites_eq k s.w)⟩

/-- Settles O40: `finishLiteralZ` at the zero-extended bitwise result, which truncation gives back. -/
theorem literalLogicResultZFrame : Obligations.LiteralLogicResultZFrame :=
  fun k _ hi =>
    ⟨⟨decode_formatL 0x8#4 k, finishLiteralZ_effect_of_trunc8 hi (trunc8_zext16 _)⟩,
      ⟨decode_formatL 0x9#4 k, finishLiteralZ_effect_of_trunc8 hi (trunc8_zext16 _)⟩,
      decode_formatL 0xA#4 k, finishLiteralZ_effect_of_trunc8 hi (trunc8_zext16 _)⟩

/-! ### MOVLW and RETLW. -/

/-- Settles O36: `execMovlw` writes `W`, advances and signals OK by definition. -/
theorem movlwLoadsW : Obligations.MovlwLoadsW :=
  ⟨decode_movlw_alias, fun _ _ => rfl⟩

/-- A jump to an address that needs no reduction. -/
theorem finish_setPc_of_mod_eq {n : Nat} (h : n % 2 ^ s.config.pcWidth = n) :
    finish (s.setPc n) = .next { s with pc := n, signal := .ok } := by
  rw [finish, State.setPc, h]; rfl

/-- RETLW with an entry on the stack (R192). -/
theorem execRetlw_of_stack_concat {e : Nat} {rest : List Nat} (h : s.stack = rest ++ [e]) (k : Byte) :
    execRetlw k s = finish ((State.setW { s with stack := rest } k).setPc e) := by
  rw [execRetlw, State.pop_concat h]

/-- Settles O37: a pop that succeeds leaves a jump to the return address, which a legal state holds reduced; a pop that fails
is the exit. -/
theorem retlwReturnsOrExits : Obligations.RetlwReturnsOrExits := by
  refine ⟨decode_retlw_alias, fun k s e rest hi hs => ?_, fun k s hs => ?_⟩
  · exact (execRetlw_of_stack_concat hs k).trans (finish_setPc_of_mod_eq (hi.top_mod hs))
  · exact execRetlw_of_stack_empty k hs

end Sys2Proof.Machine
end

section
/-! PROOFS. Decode after encode (R72 to R81, R85). -/

namespace Sys2Proof

/-- A value that is none of the seven assigned ones meets R126's selection line. -/
theorem selects_of_isAssignedC0_eq_false (f : RegAddr) (h : Instr.isAssignedC0 f = false) :
    f ≠ 0x08#7 ∧ f ≠ 0x09#7 ∧ f ≠ 0x63#7 ∧ f.toNat % 32 ≠ 0 := by
  revert f; decide

/-- Settles O1: each word is in one of the four formats, where the decoder reads the fields back; the fallback row is met
because a well-formed INVALID_C0 has none of the assigned values. -/
theorem decodeInvertsEncode : Obligations.DecodeInvertsEncode := by
  intro i hi
  cases i with
  | invalidC0 f =>
    refine (decode_formatA_zero_w_eq_invalidC0_iff f).2 (selects_of_isAssignedC0_eq_false f ?_)
    simpa [Instr.wellFormed] using hi
  | nop | ret | retfie | sleep | clrw | invalidL | invalidClass1 | invalidClass2 | invalidClass3 => rfl
  | movwf f | clrf f => exact decode_formatA _ .f f
  | subwf f d | decf f d | iorwf f d | andwf f d | xorwf f d | addwf f d | movf f d | comf f d | incf f d
  | decfsz f d | rlf f d | rrf f d | swapf f d | incfsz f d => exact decode_formatA _ d f
  | bcf f b | bsf f b | btfsc f b | btfss f b => exact decode_formatB _ b f
  | call k | goto k => exact decode_formatC _ k
  | movlw k | retlw k | iorlw k | andlw k | xorlw k | sublw k | addlw k => exact decode_formatL _ k

end Sys2Proof
end

section
/-! PROOFS. Faults (R221, R225): every instruction raises the fault of the table or completes. -/

namespace Sys2Proof.Machine

variable {i : Instr} {s t : State} {k : Fault}

/-- RETURN and RETFIE raise a fault where their pop fails, CALL where its push does, the INVALID rows always. -/
theorem exec_of_faultOf_eq_some (h : faultOf i s = some k) : exec i s = .fault k := by
  cases i with
  | ret | retfie =>
    by_cases hs : s.stack = []
    · simp only [faultOf, hs, if_true] at h
      cases h
      simp only [exec, execReturn, execRetfie, State.pop_empty hs, raise]
    · simp [faultOf, hs] at h
  | call k' =>
    by_cases hs : s.stack.length = s.config.stackDepth
    · simp only [faultOf, hs, if_true] at h
      cases h
      exact execCall_of_full hs k'
    · simp [faultOf, hs] at h
  | invalidC0 | invalidL | invalidClass1 | invalidClass2 | invalidClass3 => cases h; rfl
  | _ => cases h

/-- Where the table gives no fault the pop or push succeeds, and there is a next state. -/
theorem exec_of_faultOf_eq_none (h : faultOf i s = none) : ∃ t, exec i s = .next t := by
  cases i with
  | ret | retfie =>
    rcases s.pop_cases with ⟨hs, -⟩ | ⟨e, rest, -, hp⟩
    · simp [faultOf, hs] at h
    · simp only [exec, execReturn, execRetfie, hp]
      exact ⟨_, rfl⟩
  | call k' =>
    by_cases hs : s.stack.length = s.config.stackDepth
    · simp [faultOf, hs] at h
    · exact ⟨_, execCall_of_room hs k'⟩
  | retlw k' =>
    rcases s.pop_cases with ⟨-, hp⟩ | ⟨e, rest, -, hp⟩ <;>
      (simp only [exec, execRetlw, hp]; exact ⟨_, rfl⟩)
  | invalidC0 | invalidL | invalidClass1 | invalidClass2 | invalidClass3 => cases h
  | _ => exact ⟨_, rfl⟩

theorem exec_eq_fault_iff : exec i s = .fault k ↔ faultOf i s = some k := by
  refine ⟨fun h => ?_, exec_of_faultOf_eq_some⟩
  cases hf : faultOf i s with
  | none =>
    obtain ⟨t, ht⟩ := exec_of_faultOf_eq_none hf
    cases h.symm.trans ht
  | some k' => cases h.symm.trans (exec_of_faultOf_eq_some hf); rfl

theorem exec_ne_refused (r : Refusal) : exec i s ≠ .refused r := by
  intro h
  cases hf : faultOf i s with
  | none =>
    obtain ⟨t, ht⟩ := exec_of_faultOf_eq_none hf
    cases h.symm.trans ht
  | some k => cases h.symm.trans (exec_of_faultOf_eq_some hf)

/-- Settles O10: the table decides the outcome (`exec_of_faultOf_eq_some`, `exec_of_faultOf_eq_none`). -/
theorem faultsAreExactlyTheSpecified : Obligations.FaultsAreExactlyTheSpecified :=
  fun _ _ => ⟨fun _ => exec_eq_fault_iff, exec_of_faultOf_eq_none, exec_ne_refused⟩

/-- No instruction raises the model's name for a missing word. -/
theorem faultOf_ne_noProgramWord : faultOf i s ≠ some .noProgramWord := by
  cases i with
  | ret | retfie | call => rw [faultOf]; split <;> simp
  | _ => simp [faultOf]

/-- Settles O11: the ports after a fault are read off for each of the four kinds; the fifth is no instruction's
(`faultOf_ne_noProgramWord`). -/
theorem faultingDispatchReportsAndKeepsState : Obligations.FaultingDispatchReportsAndKeepsState := by
  intro x s k h
  rw [h]
  refine ⟨rfl, ?_⟩
  cases k with
  | invalidInstructionClass => exact .inl ⟨rfl, rfl⟩
  | invalidInstruction => exact .inr (.inl ⟨rfl, rfl⟩)
  | stackFull => exact .inr (.inr (.inl ⟨rfl, rfl⟩))
  | stackEmpty => exact .inr (.inr (.inr ⟨rfl, rfl⟩))
  | noProgramWord => exact absurd (exec_eq_fault_iff.1 h) faultOf_ne_noProgramWord

end Sys2Proof.Machine
end

section
/-! PROOFS. What every instruction that completes leaves alone, and how it moves the stack, `PC` and the outcome port
(R20, R33). -/

namespace Sys2Proof.Machine

/-- What every completing instruction leaves alone, the exit included. -/
structure Frame (i : Instr) (s t : State) : Prop where
  config : t.config = s.config
  program : t.program = s.program
  w : writesW i = false → t.w = s.w
  rf_wf : s.rf.wf = true → t.rf.wf = true

/-- How a completing instruction moves the call stack, `PC` and the outcome port. -/
inductive Moves (i : Instr) (s t : State) : Prop
  | push (k : BitVec 11) (hi : i = .call k) (hroom : s.stack.length ≠ s.config.stackDepth)
      (hstack : t.stack = s.stack ++ [s.returnAddr]) (hpc : t.pc < 2 ^ t.config.pcWidth) (hsig : t.signal.isExit = false)
  | pop (e : Nat) (hi : i = .ret ∨ i = .retfie ∨ ∃ k, i = .retlw k)
      (hstack : s.stack = t.stack ++ [e]) (hpc : t.pc < 2 ^ t.config.pcWidth) (hsig : t.signal.isExit = false)
  | exit (k : Byte) (hi : i = .retlw k) (hstack : s.stack = [])
      (ht : t = { s with running := false, signal := .exit k })
  | stay (hcall : ∀ k, i ≠ .call k) (hret : i ≠ .ret) (hretfie : i ≠ .retfie) (hretlw : ∀ k, i ≠ .retlw k)
      (hstack : t.stack = s.stack) (hpc : t.pc < 2 ^ t.config.pcWidth) (hsig : t.signal.isExit = false)

variable {i : Instr} {s t u : State}

/-- The frame of a dispatch that changes nothing but `PC` and the outcome port after `u`. -/
theorem Frame.of_setPc (n : Nat) (g : Signal) (hu : Frame i s u) : Frame i s ((u.setPc n).setSignal g) :=
  ⟨hu.config, hu.program, hu.w, hu.rf_wf⟩

theorem Frame.of_writeDest (f : RegAddr) (d : Dest) (r : Byte) (hw : writesW i = false → d ≠ .w) :
    Frame i s (s.writeDest f d r) :=
  ⟨by simp, by simp, fun h => by simp [hw h], fun h => State.wf_writeDest h f d r⟩

theorem Frame.setFlag (hu : Frame i s u) (b : Fin 8) (v : Bool) : Frame i s (u.setFlag b v) :=
  ⟨hu.config, hu.program, hu.w, fun h => State.wf_setFlag (hu.rf_wf h) b v⟩

theorem Frame.refl (i : Instr) (s : State) : Frame i s s := ⟨rfl, rfl, fun _ => rfl, id⟩

theorem Frame.setW (hu : Frame i s u) (v : Byte) (hw : writesW i = true) : Frame i s (u.setW v) :=
  ⟨hu.config, hu.program, fun h => by simp [hw] at h, hu.rf_wf⟩

theorem Frame.memWrite (hu : Frame i s u) (a : RegAddr) (v : Byte) : Frame i s (u.memWrite a v) :=
  ⟨hu.config, hu.program, hu.w, fun h => State.wf_memWrite (hu.rf_wf h) a v⟩

/-- The frame of every instruction: it is built from flag writes, port writes and `W` writes, each of which keeps it. -/
theorem exec_frame (h : exec i s = .next t) : Frame i s t := by
  cases i with
  | nop | sleep | goto | btfsc | btfss => cases h; exact .of_setPc _ _ (.refl _ s)
  | movwf | bcf | bsf => cases h; exact .of_setPc _ _ (.memWrite (.refl _ s) _ _)
  | movlw => cases h; exact .of_setPc _ _ (.setW (.refl _ s) _ rfl)
  | clrw => cases h; exact .of_setPc _ _ (.setFlag (.of_writeDest 0#7 .w _ (by simp [writesW])) _ _)
  | clrf f => cases h; exact .of_setPc _ _ (.setFlag (.of_writeDest f .f _ (by simp)) _ _)
  | iorlw | andlw | xorlw => cases h; exact .of_setPc _ _ (.setFlag (.setW (.refl _ s) _ rfl) _ _)
  | sublw | addlw => cases h; exact .of_setPc _ _ (.setFlag (.setFlag (.setFlag (.setW (.refl _ s) _ rfl) _ _) _ _) _ _)
  | decf f d | iorwf f d | andwf f d | xorwf f d | movf f d | comf f d | incf f d =>
    cases h; exact .of_setPc _ _ (.setFlag (.of_writeDest f d _ (by simp [writesW])) _ _)
  | decfsz f d | incfsz f d | swapf f d => cases h; exact .of_setPc _ _ (.of_writeDest f d _ (by simp [writesW]))
  | rlf f d | rrf f d =>
    cases h; exact .of_setPc _ _ (.setFlag (.setFlag (.of_writeDest f d _ (by simp [writesW])) _ _) _ _)
  | subwf f d | addwf f d =>
    cases h
    exact .of_setPc _ _ (.setFlag (.setFlag (.setFlag (.of_writeDest f d _ (by simp [writesW])) _ _) _ _) _ _)
  | ret =>
    rcases s.pop_cases with ⟨-, hp⟩ | ⟨e, rest, -, hp⟩ <;> simp only [exec, execReturn, hp] at h <;> cases h
    exact .of_setPc _ _ (u := { s with stack := rest }) ⟨rfl, rfl, fun _ => rfl, id⟩
  | retfie =>
    rcases s.pop_cases with ⟨-, hp⟩ | ⟨e, rest, -, hp⟩ <;> simp only [exec, execRetfie, hp] at h <;> cases h
    exact ⟨rfl, rfl, fun _ => rfl, fun hw => State.wf_setGie (s := State.setPc { s with stack := rest } e) hw⟩
  | retlw k =>
    rcases s.pop_cases with ⟨-, hp⟩ | ⟨e, rest, -, hp⟩ <;> simp only [exec, execRetlw, hp] at h <;> cases h
    · exact ⟨rfl, rfl, fun _ => rfl, id⟩
    · exact ⟨rfl, rfl, nofun, id⟩
  | call k =>
    rcases s.push_cases s.returnAddr with ⟨-, hp⟩ | ⟨-, hp⟩ <;> simp only [exec, execCall, hp] at h <;> cases h
    exact .of_setPc _ _ (u := { s with stack := s.stack ++ [s.returnAddr] }) ⟨rfl, rfl, fun _ => rfl, id⟩
  | invalidC0 | invalidL | invalidClass1 | invalidClass2 | invalidClass3 => cases h

/-- CALL pushes, the returns pop or exit as their pop turns out, and the other instructions leave the stack. -/
theorem exec_moves (h : exec i s = .next t) : Moves i s t := by
  cases i with
  | ret =>
    rcases s.pop_cases with ⟨-, hp⟩ | ⟨e, rest, hs, hp⟩ <;> simp only [exec, execReturn, hp] at h <;> cases h
    exact .pop e (.inl rfl) hs (State.mod_lt _ e) rfl
  | retfie =>
    rcases s.pop_cases with ⟨-, hp⟩ | ⟨e, rest, hs, hp⟩ <;> simp only [exec, execRetfie, hp] at h <;> cases h
    exact .pop e (.inr (.inl rfl)) hs (State.mod_lt _ e) rfl
  | retlw k =>
    rcases s.pop_cases with ⟨hs, hp⟩ | ⟨e, rest, hs, hp⟩ <;> simp only [exec, execRetlw, hp] at h <;> cases h
    · exact .exit k rfl hs rfl
    · exact .pop e (.inr (.inr ⟨k, rfl⟩)) hs (State.mod_lt _ e) rfl
  | call k =>
    rcases s.push_cases s.returnAddr with ⟨-, hp⟩ | ⟨hroom, hp⟩ <;> simp only [exec, execCall, hp] at h <;> cases h
    exact .push k rfl hroom rfl (State.mod_lt _ _) rfl
  | invalidC0 | invalidL | invalidClass1 | invalidClass2 | invalidClass3 => cases h
  | decf f d | iorwf f d | andwf f d | xorwf f d | movf f d | comf f d | incf f d | decfsz f d | incfsz f d | swapf f d
  | rlf f d | rrf f d | subwf f d | addwf f d =>
    cases h
    exact .stay nofun nofun nofun nofun (State.writeDest_stack ..) (State.mod_lt _ _) rfl
  | _ =>
    cases h
    exact .stay nofun nofun nofun nofun rfl (State.mod_lt _ _) rfl

/-- Settles O57: the pushes, pops and stays of `Moves`; the exit drops nothing, for the stack is empty. -/
theorem stackChangesOnlyByCallAndReturns : Obligations.StackChangesOnlyByCallAndReturns := by
  intro i s t h
  cases exec_moves h with
  | push k hi _ hstack => exact .inl ⟨⟨k, hi⟩, hstack⟩
  | pop e hi hstack => exact .inr (.inl ⟨hi, by rw [hstack, List.dropLast_concat]⟩)
  | exit k hi hstack ht => exact .inr (.inl ⟨.inr (.inr ⟨k, hi⟩), by rw [ht, hstack]; rfl⟩)
  | stay hcall hret hretfie hretlw hstack => exact .inr (.inr ⟨hcall, hret, hretfie, hretlw, hstack⟩)

/-- Settles O58: `exec_frame`, and the exit changes `running` and the outcome port only. -/
theorem wConfigAndImageFrame : Obligations.WConfigAndImageFrame := by
  intro i s t h
  have hf := exec_frame h
  refine ⟨hf.w, ?_, hf.config, hf.program⟩
  rintro ⟨k, rfl, hs⟩
  cases (execRetlw_of_stack_empty k hs).symm.trans h
  rfl

end Sys2Proof.Machine
end

section
/-! PROOFS. Every step keeps a legal state legal (R25, R32, R33), and how a run from a live legal state ends (R248). -/

namespace Sys2Proof.Machine

variable {i : Instr} {s t : State}

/-- After an instruction that completes otherwise than by the exit, `running` is as before. -/
theorem exec_running_of_signal (h : exec i s = .next t) (hsig : t.signal.isExit = false) : t.running = s.running := by
  refine exec_running_of_not_exits (fun he => ?_) h
  obtain ⟨k, rfl, hs⟩ := he
  cases (execRetlw_of_stack_empty k hs).symm.trans h
  cases hsig

/-- The exit answers a legal state. -/
theorem State.Inv.exit (hi : s.Inv) (k : Byte) : State.Inv { s with running := false, signal := .exit k } := by
  obtain ⟨hl, hrf, hp, hpc, hlen, hst, -⟩ := hi
  exact ⟨hl, hrf, hp, hpc, hlen, hst, rfl⟩

/-- A completing instruction other than the exit answers a legal state if it leaves a legal stack. -/
theorem inv_of_stack (hi : s.Inv) (hr : s.running = true) (h : exec i s = .next t) (hpc : t.pc < 2 ^ t.config.pcWidth)
    (hsig : t.signal.isExit = false) (hlen : t.stack.length ≤ s.config.stackDepth)
    (hst : ∀ e ∈ t.stack, e < 2 ^ s.config.pcWidth) : t.Inv := by
  have hf := exec_frame h
  have hrun : t.running = !t.signal.isExit := by rw [exec_running_of_signal h hsig, hr, hsig]; rfl
  refine ⟨?_, hf.rf_wf hi.2.1, ?_, hpc, ?_, ?_, hrun⟩
  · rw [hf.config]; exact hi.1
  · rw [hf.program]; exact hi.2.2.1
  · rw [hf.config]; exact hlen
  · rw [hf.config]; exact hst

/-- Every instruction that completes at a running legal state answers a legal state. -/
theorem exec_inv (hi : s.Inv) (hr : s.running = true) (h : exec i s = .next t) : t.Inv := by
  have ⟨_, _, _, _, hlen, hst, _⟩ := hi
  cases exec_moves h with
  | push k _ hroom hstack hpc hsig =>
    refine inv_of_stack hi hr h hpc hsig ?_ ?_
    · rw [hstack, List.length_append, List.length_singleton]; omega
    · rw [hstack]
      intro e he
      rcases List.mem_append.1 he with he | he
      · exact hst e he
      · rw [List.mem_singleton.1 he]; exact s.mod_lt _
  | pop e _ hstack hpc hsig =>
    rw [hstack] at hlen hst
    refine inv_of_stack hi hr h hpc hsig ?_ fun e' he' => hst e' (List.mem_append_left _ he')
    rw [List.length_append] at hlen; omega
  | exit k _ _ ht => rw [ht]; exact hi.exit k
  | stay _ _ _ _ hstack hpc hsig =>
    exact inv_of_stack hi hr h hpc hsig (hstack ▸ hlen) (hstack ▸ hst)

/-- A step that answers a next state is the execution of an instruction at a live state. -/
theorem exec_of_step_next (h : step s = .next t) : s.Live ∧ ∃ i, exec i s = .next t := by
  rcases step_cases s with ⟨-, hs⟩ | ⟨-, -, hs⟩ | ⟨hl, x, -, hs⟩
  · cases hs.symm.trans h
  · cases hs.symm.trans h
  · exact ⟨hl, decode x, hs.symm.trans h⟩

theorem step_inv (hi : s.Inv) (h : step s = .next t) : t.Inv := by
  obtain ⟨⟨hr, -⟩, i, hx⟩ := exec_of_step_next h
  exact exec_inv hi hr hx

/-- Settles O51: a step is an instruction run at a live state, and each kind of move keeps the bounds (`exec_inv`). -/
theorem stepKeepsLegalStates : Obligations.StepKeepsLegalStates :=
  fun _ _ => step_inv

/-- Only the exit signals EXIT, and only on an empty stack. -/
theorem exec_stack_of_exit {k : Byte} (h : exec i s = .next t) (hsig : t.signal = .exit k) : t.stack = [] := by
  cases exec_moves h with
  | push _ _ _ _ _ hs | pop _ _ _ _ hs | stay _ _ _ _ _ _ hs => rw [hsig] at hs; cases hs
  | exit _ _ hstack ht => rw [ht]; exact hstack

/-- A run whose first step stops with a fault is faulted, or stuck at a missing word. -/
theorem asSpecified_ofFault {k : Fault} (hi : s.Inv) (hl : s.Live) (h : step s = .fault k) :
    (RunResult.ofFault k s).AsSpecified := by
  rcases step_cases s with ⟨-, hs⟩ | ⟨-, hx, hs⟩ | ⟨-, x, hx, hs⟩
  · cases hs.symm.trans h
  · cases hs.symm.trans h
    exact ⟨hi, hl, hs, hx⟩
  · have hf : faultOf (decode x) s = some k := exec_eq_fault_iff.1 (hs.symm.trans h)
    rcases RunResult.ofFault_cases k s with ⟨rfl, -⟩ | ⟨-, hk⟩
    · exact absurd hf faultOf_ne_noProgramWord
    · rw [hk]; exact ⟨hi, hl, h, x, hx, hf⟩

/-- `running` is false exactly after EXIT (R32, R227). -/
theorem State.Inv.running_eq (hi : s.Inv) : s.running = !s.signal.isExit := hi.2.2.2.2.2.2

theorem step_ne_refused (hl : s.Live) (r : Refusal) : step s ≠ .refused r := by
  rcases step_cases s with ⟨hn, -⟩ | ⟨-, -, hs⟩ | ⟨-, x, -, hs⟩
  · exact absurd hl hn
  · rw [hs]; exact nofun
  · rw [hs]; exact exec_ne_refused r

/-- Settles O52, by induction on the bound: an OK step goes on at a live legal state, and STANDBY, EXIT and a fault end the
run as R248 says. -/
theorem runsEndAsSpecified : Obligations.RunsEndAsSpecified := by
  intro n
  induction n with
  | zero => exact fun s hi hl => ⟨hi, hl⟩
  | succ n ih =>
    intro s hi hl
    cases h : step s with
    | fault k => rw [runFor_fault h]; exact asSpecified_ofFault hi hl h
    | refused r => exact absurd h (step_ne_refused hl r)
    | next t =>
      have ht := step_inv hi h
      have hrun := ht.running_eq
      cases hsig : t.signal with
      | ok => rw [runFor_next_ok h hsig]; exact ih t ht ⟨by rw [hrun, hsig]; rfl, hsig⟩
      | standby => rw [runFor_next_standby h hsig]; exact ⟨ht, by rw [hrun, hsig]; rfl, hsig⟩
      | exit k =>
        obtain ⟨-, i, hx⟩ := exec_of_step_next h
        rw [runFor_next_exit h hsig]
        exact ⟨ht, by rw [hrun, hsig]; rfl, hsig, exec_stack_of_exit hx hsig⟩

end Sys2Proof.Machine
end

section
/-! PROOFS. The bits the decoder ignores, and the match and mask rows (R83, R88). -/

namespace Sys2Proof

/-- The word `x` is one of the words of the well-formed instruction `i`: they differ in ignored bits only. -/
def IsWordOf (x : Word) (i : Instr) : Prop :=
  i.wellFormed = true ∧ x &&& ~~~i.ignoredBits = encode i

/-- The canonical word of an instruction without ignored bits. -/
theorem isWordOf_encode {i : Instr} (hw : i.wellFormed = true) (hb : i.ignoredBits = 0#16) : IsWordOf (encode i) i := by
  refine ⟨hw, ?_⟩
  rw [hb]
  exact BitVec.and_allOnes

/-- Class 0, sub-opcode 0, `d = 0`. -/
theorem isWordOf_decodeC0Special_w (f : RegAddr) : IsWordOf (formatA 0x0 .w f) (decodeC0Special f .w) := by
  unfold IsWordOf
  revert f; decide

theorem formatA_clrw (f : RegAddr) : formatA 0x1 .w f &&& ~~~0x007F#16 = formatA 0x1 .w 0#7 := by
  revert f; decide

theorem isWordOf_decodeClass0 (op : BitVec 4) (d : Dest) (f : RegAddr) :
    IsWordOf (formatA op d f) (decodeClass0 op f d) := by
  by_cases h0 : op = 0x0#4
  · subst h0
    cases d with
    | w => exact isWordOf_decodeC0Special_w f
    | f => exact isWordOf_encode rfl rfl
  by_cases h1 : op = 0x1#4
  · subst h1
    cases d with
    | w => exact ⟨rfl, formatA_clrw f⟩
    | f => exact isWordOf_encode rfl rfl
  obtain ⟨⟨n, hn⟩⟩ := op
  interval_cases n
  · exact absurd rfl h0
  · exact absurd rfl h1
  all_goals exact isWordOf_encode rfl rfl

theorem isWordOf_decodeClass1 (op : BitVec 2) (b : BitVec 3) (f : RegAddr) :
    IsWordOf (formatB op b f) (decodeClass1 op f b) := by
  have h : op = 0#2 ∨ op = 1#2 ∨ op = 2#2 ∨ op = 3#2 := by revert op; decide
  rcases h with rfl | rfl | rfl | rfl <;> exact isWordOf_encode rfl rfl

theorem isWordOf_decodeClass2 (g : BitVec 1) (k : BitVec 11) :
    IsWordOf (formatC g k) (decodeClass2 (g.getLsbD 0) k) := by
  have h : g = 0#1 ∨ g = 1#1 := by revert g; decide
  rcases h with rfl | rfl <;> exact isWordOf_encode rfl rfl

/-- Format L without ignored sub-opcode bits. -/
theorem formatL_and_not {op m c : BitVec 4} (h : op &&& ~~~m = c) (k : Byte) :
    formatL op k &&& ~~~(0x0#4 ++ m ++ 0x00#8 : Word) = formatL c k := by
  subst h
  apply BitVec.eq_of_getLsbD_eq
  intro i hi
  simp only [formatL, BitVec.getLsbD_and, BitVec.getLsbD_append, BitVec.getLsbD_not]
  interval_cases i <;> simp

/-- The tests of R81 leave one sub-opcode of class 3. -/
theorem class3_tests (op : BitVec 4) :
    op &&& 0xC#4 = 0x0#4 ∨ op &&& 0xC#4 = 0x4#4 ∨ op &&& 0xE#4 = 0xC#4 ∨ op &&& 0xE#4 = 0xE#4 ∨
      op = 0x8#4 ∨ op = 0x9#4 ∨ op = 0xA#4 ∨ op = 0xB#4 := by
  revert op; decide

theorem isWordOf_decodeClass3 (op : BitVec 4) (k : Byte) : IsWordOf (formatL op k) (decodeClass3 op k) := by
  unfold decodeClass3
  split_ifs with h0 h4 hC hE h8 h9 hA
  · exact ⟨rfl, formatL_and_not (m := 0x3#4) h0 k⟩
  · exact ⟨rfl, formatL_and_not (m := 0x3#4) h4 k⟩
  · exact ⟨rfl, formatL_and_not (m := 0x1#4) hC k⟩
  · exact ⟨rfl, formatL_and_not (m := 0x1#4) hE k⟩
  · subst h8; exact isWordOf_encode rfl rfl
  · subst h9; exact isWordOf_encode rfl rfl
  · subst hA; exact isWordOf_encode rfl rfl
  · have hB : op = 0xB#4 := by simpa [h0, h4, hC, hE, h8, h9, hA] using class3_tests op
    subst hB
    exact ⟨rfl, Laws.EncodeFitsRow.formatL_fits 0xB k 0xF⟩

/-- The top two bits of a word in none of the formats. -/
theorem top_and (t : BitVec 2) (y : BitVec 14) : (t ++ y : Word) &&& ~~~0x3FFF#16 = t ++ 0#14 := by
  apply BitVec.eq_of_getLsbD_eq
  intro i hi
  simp only [BitVec.getLsbD_and, BitVec.getLsbD_append]
  interval_cases i <;> simp

theorem isWordOf_decodeInvalidClass {t : BitVec 2} (ht : t ≠ 0#2) (y : BitVec 14) :
    IsWordOf (t ++ y : Word) (decodeInvalidClass t) := by
  have h : t = 1#2 ∨ t = 2#2 ∨ t = 3#2 := by revert t; decide
  rcases h with rfl | rfl | rfl <;> exact ⟨rfl, top_and _ y⟩

theorem isWordOf_decode (x : Word) : IsWordOf x (decode x) := by
  rcases word_formats x with ⟨op, d, f, rfl⟩ | ⟨op, b, f, rfl⟩ | ⟨g, k, rfl⟩ | ⟨op, k, rfl⟩ | ⟨t, y, ht, rfl⟩
  · rw [decode_formatA]; exact isWordOf_decodeClass0 op d f
  · rw [decode_formatB]; exact isWordOf_decodeClass1 op b f
  · rw [decode_formatC]; exact isWordOf_decodeClass2 g k
  · rw [decode_formatL]; exact isWordOf_decodeClass3 op k
  · rw [decode_top ht]; exact isWordOf_decodeInvalidClass ht y

/-- Settles O2: format by format, and where the top bits are set, the word without its ignored bits is the canonical one. -/
theorem decodeDropsOnlyIgnoredBits : Obligations.DecodeDropsOnlyIgnoredBits := isWordOf_decode

/-! ### The rows of R88. -/

open Laws.EncodeFitsRow in
/-- The family EncodeFitsRow as one statement about every instruction. -/
theorem encodeFitsRow (i : Instr) : Statement i := by
  cases i with
  | nop => exact nop | ret => exact ret | retfie => exact retfie | sleep => exact sleep | clrw => exact clrw
  | invalidL => exact invalidL | invalidClass1 => exact invalidClass1 | invalidClass2 => exact invalidClass2
  | invalidClass3 => exact invalidClass3
  | invalidC0 f => exact invalidC0 f | movwf f => exact movwf f | clrf f => exact clrf f
  | subwf f d => exact subwf f d | decf f d => exact decf f d | iorwf f d => exact iorwf f d
  | andwf f d => exact andwf f d | xorwf f d => exact xorwf f d | addwf f d => exact addwf f d
  | movf f d => exact movf f d | comf f d => exact comf f d | incf f d => exact incf f d
  | decfsz f d => exact decfsz f d | rlf f d => exact rlf f d | rrf f d => exact rrf f d | swapf f d => exact swapf f d
  | incfsz f d => exact incfsz f d
  | bcf f b => exact bcf f b | bsf f b => exact bsf f b | btfsc f b => exact btfsc f b | btfss f b => exact btfss f b
  | call k => exact call k | goto k => exact goto k | movlw k => exact movlw k | retlw k => exact retlw k
  | iorlw k => exact iorlw k | andlw k => exact andlw k | xorlw k => exact xorlw k | sublw k => exact sublw k
  | addlw k => exact addlw k

theorem OpcodeRow.fits_iff (r : OpcodeRow) (x : Word) : r.fits x = true ↔ x &&& r.mask = r.pattern := by
  simp [OpcodeRow.fits]

/-- A row masks out the bits its instruction ignores. -/
theorem Instr.row_mask_and_ignoredBits (i : Instr) : ~~~i.ignoredBits &&& i.row.mask = i.row.mask := by
  cases i <;> simp only [Instr.ignoredBits, Instr.row] <;> decide

/-- Ignored bits play no part in the match. -/
theorem IsWordOf.fits {x : Word} {i : Instr} (h : IsWordOf x i) : i.row.fits x = true := by
  have he := (OpcodeRow.fits_iff ..).1 (encodeFitsRow i h.1).1
  rwa [OpcodeRow.fits_iff, ← i.row_mask_and_ignoredBits, ← BitVec.and_assoc, h.2]

theorem Instr.row_mem (i : Instr) : i.row = fallbackRow ∨ i.row ∈ opcodeRows := by
  cases i <;> simp [Instr.row, fallbackRow, opcodeRows]

/-- Only INVALID_C0 has the fallback row. -/
theorem Instr.row_eq_fallbackRow {i : Instr} (h : i.row = fallbackRow) : ∃ f, i = .invalidC0 f := by
  cases i with
  | invalidC0 f => exact ⟨f, rfl⟩
  | _ => simp [Instr.row, fallbackRow] at h

/-- Two rows that one word matches agree where both masks look. -/
theorem OpcodeRow.fits_both {r r' : OpcodeRow} {x : Word} (h : r.fits x = true) (h' : r'.fits x = true) :
    r.pattern &&& r'.mask = r'.pattern &&& r.mask := by
  rw [OpcodeRow.fits_iff] at h h'
  rw [← h, ← h', BitVec.and_assoc, BitVec.and_assoc, BitVec.and_comm r.mask]

/-- The 38 rows differ pairwise in a bit where both masks look. -/
theorem opcodeRows_disjoint :
    ∀ r ∈ opcodeRows, ∀ r' ∈ opcodeRows, r.pattern &&& r'.mask = r'.pattern &&& r.mask → r = r' := by
  decide

/-- Only the rows of NOP, RETURN, RETFIE and SLEEP share words with the fallback row. -/
theorem opcodeRows_meet_fallbackRow :
    ∀ r ∈ opcodeRows, r.pattern &&& fallbackRow.mask = fallbackRow.pattern &&& r.mask → r ∈ opcodeRows.take 4 := by
  decide

/-- Those four match no unassigned word. -/
theorem not_fits_of_unassigned :
    ∀ f : RegAddr, Instr.isAssignedC0 f = false → ∀ r ∈ opcodeRows.take 4, r.fits (formatA 0x0 .w f) = false := by
  decide

/-- Settles O3: the word matches the row of what it decodes to (`IsWordOf.fits`), so by `opcodeRows_disjoint` no other; where
that row is the fallback, the word is an unassigned one (`eq_formatA_of_decode_eq_invalidC0`), which matches none. -/
theorem decodeTakesTheOneMatchingRow : Obligations.DecodeTakesTheOneMatchingRow := by
  intro x
  have hx := isWordOf_decode x
  refine ⟨hx.fits, (decode x).row_mem, fun r hr hfit => ?_⟩
  rcases (decode x).row_mem with hf | hm
  · obtain ⟨f, hd⟩ := Instr.row_eq_fallbackRow hf
    have hw : Instr.isAssignedC0 f = false := by simpa [hd, Instr.wellFormed] using hx.1
    have hm := opcodeRows_meet_fallbackRow r hr (hf ▸ OpcodeRow.fits_both hfit hx.fits)
    rw [eq_formatA_of_decode_eq_invalidC0 hd, not_fits_of_unassigned f hw r hm] at hfit
    cases hfit
  · exact opcodeRows_disjoint r hr _ hm (OpcodeRow.fits_both hfit hx.fits)

/-! ### Fixed words. -/

/-- Settles O4: the words of NOP are decoded one by one, CLRW's are of format A, class 3 masks the ignored bits. -/
theorem aliasWordsDecodeAlike : Obligations.AliasWordsDecodeAlike :=
  ⟨by decide, fun x => decode_formatA 0x1#4 .w x, decode_movlw_alias, decode_retlw_alias, decode_sublw_alias,
    decode_addlw_alias, rfl, rfl⟩

/-- Settles O5: the decoder is evaluated at each word. -/
theorem specWordsDecodeAsWritten : Obligations.SpecWordsDecodeAsWritten := by
  unfold Obligations.SpecWordsDecodeAsWritten
  decide

end Sys2Proof
end

section
/-! PROOFS. The words that only raise a fault: INVALID_L (R198) and INVALID_CLASS (R101, R82). -/

namespace Sys2Proof.Machine

/-! ### INVALID_L. -/

/-- The match of the row INVALID_L as a range of words. -/
theorem fits_row_invalidL_iff (x : Word) : Instr.invalidL.row.fits x = true ↔ 0x3B00 ≤ x.toNat ∧ x.toNat ≤ 0x3BFF := by
  have hx : x &&& 0xFF00#16 = x.extractLsb' 8 8 ++ 0x00#8 := by
    apply BitVec.eq_of_getLsbD_eq
    intro i hi
    simp only [BitVec.getLsbD_and, BitVec.getLsbD_append, BitVec.getLsbD_extractLsb']
    interval_cases i <;> simp
  have hb : x.extractLsb' 8 8 = 0x3B#8 ↔ x.toNat / 2 ^ 8 = 0x3B := by
    have := x.isLt
    rw [← BitVec.toNat_inj, BitVec.extractLsb'_toNat, Nat.shiftRight_eq_div_pow]
    simp only [BitVec.toNat_ofNat]
    omega
  rw [OpcodeRow.fits_iff]
  have h : x &&& 0xFF00#16 = 0x3B00#16 ↔ x.extractLsb' 8 8 = 0x3B#8 := by
    rw [hx]
    exact BitVec.append_left_inj (s₁ := x.extractLsb' 8 8) (s₂ := 0x3B#8) (0x00#8)
  exact h.trans (hb.trans (by omega))

theorem Instr.eq_invalidL_of_row {i : Instr} (h : i.row = Instr.invalidL.row) : i = .invalidL := by
  cases i with
  | invalidL => rfl
  | _ => simp [Instr.row] at h

/-- Settles O14: the row INVALID_L is the range (`fits_row_invalidL_iff`), and a word decodes to the one row it matches. -/
theorem invalidLiteralWordsFault : Obligations.InvalidLiteralWordsFault := by
  refine ⟨fun x => ?_, fun s => rfl⟩
  rw [← fits_row_invalidL_iff]
  obtain ⟨hfit, -, huniq⟩ := decodeTakesTheOneMatchingRow x
  refine ⟨fun h => h ▸ hfit, fun h => Instr.eq_invalidL_of_row (huniq _ ?_ h).symm⟩
  decide

/-! ### INVALID_CLASS. -/

theorem top_ne_zero_iff (x : Word) : x.extractLsb' 14 2 ≠ 0#2 ↔ 3 < x.toNat / 2 ^ 12 := by
  have := x.isLt
  rw [ne_eq, ← BitVec.toNat_inj, BitVec.extractLsb'_toNat, Nat.shiftRight_eq_div_pow]
  simp only [BitVec.toNat_ofNat]
  omega

/-- The three rows that raise InvalidInstructionClass. -/
theorem faultOf_eq_invalidInstructionClass_iff (i : Instr) (s : State) :
    faultOf i s = some .invalidInstructionClass ↔ i = .invalidClass1 ∨ i = .invalidClass2 ∨ i = .invalidClass3 := by
  cases i with
  | ret | retfie | call => rw [faultOf]; split <;> simp
  | _ => simp [faultOf]

/-- A word decodes to one of them exactly if its top two bits are not clear: those are the bits no such word ignores. -/
theorem decode_invalidClass_iff (x : Word) :
    (decode x = .invalidClass1 ∨ decode x = .invalidClass2 ∨ decode x = .invalidClass3) ↔ x.extractLsb' 14 2 ≠ 0#2 := by
  constructor
  · intro h ht
    obtain ⟨-, hx⟩ := isWordOf_decode x
    have h0 : x &&& ~~~0x3FFF#16 = 0x0000#16 := by
      rw [word_top x, ht]; exact top_and _ _
    rcases h with h | h | h <;> rw [h] at hx <;> exact absurd (h0.symm.trans hx) (by decide)
  · intro ht
    rw [word_top x, decode_top ht, decodeInvalidClass]
    split_ifs <;> simp

/-- Settles O12: the table gives that fault to the three rows only, and they hold the words with a bit of 15:14 set. -/
theorem invalidClassWordsFault : Obligations.InvalidClassWordsFault := by
  refine ⟨fun x s => ?_, fun s => ⟨rfl, rfl, rfl⟩⟩
  calc dispatch x s = .fault .invalidInstructionClass
      ↔ faultOf (decode x) s = some .invalidInstructionClass := exec_eq_fault_iff
    _ ↔ x.extractLsb' 14 2 ≠ 0#2 := (faultOf_eq_invalidInstructionClass_iff _ s).trans (decode_invalidClass_iff x)
    _ ↔ 3 < x.toNat / 2 ^ 12 := top_ne_zero_iff x

end Sys2Proof.Machine
end

section
/-! PROOFS. The register file as plain storage (R50, R51, R52, R9). -/

namespace Sys2Proof.Machine

theorem State.Inv.memWrite {s : State} (hi : s.Inv) (a : RegAddr) (v : Byte) : (s.memWrite a v).Inv :=
  ⟨hi.1, State.wf_memWrite hi.2.1 a v, hi.2.2⟩

theorem Memory.ext {m m' : Memory} (h : m.wf = true) (h' : m'.wf = true)
    (hr : ∀ a : RegAddr, m.read a.toNat = m'.read a.toNat) : m = m' := by
  refine Memory.ext_from h h' fun a ha => ?_
  have := hr (BitVec.ofNat 7 a)
  rwa [BitVec.toNat_ofNat, Nat.mod_eq_of_lt (by simpa using ha)] at this

/-- Settles O47: canonical lists are ordered and hold no default byte, so what they read determines them. -/
theorem registerFilesReadingAlikeAreEqual : Obligations.RegisterFilesReadingAlikeAreEqual :=
  fun _ _ => Memory.ext

/-- Writes to different registers commute: the two canonical lists read alike. -/
theorem Memory.write_comm {m : Memory} (h : m.wf = true) {a b : RegAddr} (hab : b ≠ a) (v u : Byte) :
    (m.write a.toNat v).write b.toNat u = (m.write b.toNat u).write a.toNat v := by
  have ha := Memory.wf_write (v := v) h a.isLt
  have hb := Memory.wf_write (v := u) h b.isLt
  refine Memory.ext (Memory.wf_write ha b.isLt) (Memory.wf_write hb a.isLt) fun c => ?_
  rw [Memory.read_write ha, Memory.read_write h, Memory.read_write hb, Memory.read_write h]
  have hne : b.toNat ≠ a.toNat := fun e => hab (BitVec.eq_of_toNat_eq e)
  by_cases hbc : b.toNat = c.toNat
  · rw [if_pos hbc, if_neg (hbc ▸ hne.symm), if_pos hbc]
  · rw [if_neg hbc, if_neg hbc]

/-- Settles O46, by the port laws `memRead_memWrite` and `Memory.write_comm`. -/
theorem registerFileIsPlainStorage : Obligations.RegisterFileIsPlainStorage := by
  intro s a v hi
  refine ⟨?_, fun b hb => ?_, hi.memWrite a v, fun b u hb => ?_⟩
  · rw [State.memRead_memWrite hi.2.1, if_pos rfl]
  · rw [State.memRead_memWrite hi.2.1, if_neg hb.symm]
  · exact congrArg (fun m => { s with rf := m }) (Memory.write_comm hi.2.1 hb v u)

/-- The first `n` registers can hold any bytes: write them one after the other. -/
theorem exists_memory_reading_below (g : RegAddr → Byte) (n : Nat) (hn : n ≤ 128) :
    ∃ m : Memory, m.wf = true ∧ ∀ a : RegAddr, a.toNat < n → m.read a.toNat = g a := by
  induction n with
  | zero => exact ⟨[], rfl, fun a ha => absurd ha (Nat.not_lt_zero _)⟩
  | succ n ih =>
    obtain ⟨m, hm, hg⟩ := ih (by omega)
    refine ⟨m.write n (g (BitVec.ofNat 7 n)), Memory.wf_write hm hn, fun a ha => ?_⟩
    rw [Memory.read_write hm]
    split
    · next h => rw [h, BitVec.ofNat_toNat, BitVec.setWidth_eq]
    · next h => exact hg a (by omega)

/-- Settles O48: `exists_memory_reading_below` at all 128 registers. -/
theorem everyRegisterContentIsRepresented : Obligations.EveryRegisterContentIsRepresented := by
  intro g
  obtain ⟨m, hm, hg⟩ := exists_memory_reading_below g 128 (le_refl _)
  exact ⟨m, hm, fun a => hg a a.isLt⟩

end Sys2Proof.Machine
end

section
/-! PROOFS. The call stack as a unit (R211 to R216). -/

namespace Sys2Proof.Machine

/-- Settles O44: each clause is one lemma about the operation. -/
theorem pushPopAndPredicates : Obligations.PushPopAndPredicates :=
  fun _ => ⟨beq_iff_eq, beq_iff_eq, fun v => ⟨fun h => State.push_full h v, fun h => State.push_room h v⟩,
    State.pop_empty, fun _ _ => State.pop_concat⟩

/-- A pop takes back what a push that succeeded put on top. -/
theorem State.pop_of_push {s t : State} {v : Nat} (h : s.push v = some t) : t.pop = some (v, s) := by
  rcases s.push_cases v with ⟨-, hp⟩ | ⟨-, hp⟩
  · cases hp.symm.trans h
  · cases hp.symm.trans h
    exact State.pop_concat rfl

/-- A push succeeds below capacity, one place higher. -/
theorem State.exists_push {s : State} (v : Nat) (h : s.stack.length < s.config.stackDepth) :
    ∃ t, s.push v = some t ∧ t.stack.length = s.stack.length + 1 ∧ t.config = s.config :=
  ⟨_, State.push_room h.ne v, by simp, rfl⟩

/-- One pop more. -/
theorem State.popMany_succ {s t : State} {v : Nat} (h : s.pop = some (v, t)) (n : Nat) :
    State.popMany (n + 1) s = (State.popMany n t).map fun p => (v :: p.1, p.2) := by
  simp only [State.popMany, h]
  cases State.popMany n t <;> rfl

/-- As many pushes as there is room for succeed, and as many pops give the values back in reverse and restore the state. -/
theorem State.pushAll_popMany (vs : List Nat) (s : State) (h : s.stack.length + vs.length ≤ s.config.stackDepth) :
    ∃ t, s.pushAll vs = some t ∧ t.stack.length = s.stack.length + vs.length ∧ t.config = s.config ∧
      ∀ n, State.popMany (vs.length + n) t = (State.popMany n s).map fun p => (vs.reverse ++ p.1, p.2) := by
  induction vs generalizing s with
  | nil => exact ⟨s, rfl, rfl, rfl, fun n => by simp⟩
  | cons v vs ih =>
    rw [List.length_cons] at h
    obtain ⟨u, hu, hlen, hc⟩ := s.exists_push v (by omega)
    obtain ⟨t, ht, htlen, htc, hpop⟩ := ih u (by rw [hlen, hc]; omega)
    have hpush : s.pushAll (v :: vs) = some t := by rw [State.pushAll, hu]; exact ht
    refine ⟨t, hpush, by rw [htlen, hlen, List.length_cons]; omega, htc.trans hc, fun n => ?_⟩
    have e : vs.length + 1 + n = vs.length + (n + 1) := by omega
    rw [List.length_cons, e, hpop, State.popMany_succ (State.pop_of_push hu), Option.map_map]
    simp only [List.reverse_cons, List.append_assoc]
    rfl

/-- Settles O45: `pushAll_popMany` for a stack filled from empty, and `pop_of_push` for the rest. -/
theorem callStackLaws : Obligations.CallStackLaws := by
  refine ⟨fun s vs hs hvs => ?_, fun s a b h => ?_, fun _ _ _ => State.pop_of_push⟩
  · obtain ⟨t, ht, hlen, hc, hpop⟩ := s.pushAll_popMany vs (by rw [hs, hvs]; simp)
    have hfull : t.stack.length = t.config.stackDepth := by rw [hlen, hc, hs, hvs]; simp
    refine ⟨t, ht, State.push_full hfull, ?_, State.pop_empty hs⟩
    rw [← hvs]
    simpa [State.popMany] using hpop 0
  · obtain ⟨t, ht, hlen, hc⟩ := s.exists_push a (by omega)
    obtain ⟨u, hu, -⟩ := t.exists_push b (by rw [hlen, hc]; omega)
    exact ⟨t, u, t, ht, hu, State.pop_of_push hu, State.pop_of_push ht⟩

end Sys2Proof.Machine
end

section
/-! PROOFS. The rotates (R139, R140, I17, R143). The register and the carry are one 9-bit value, which a rotate turns by one
place. -/

namespace Sys2Proof.Machine

/-! ### The result and the carry-out. -/

/-- RLF's result (R139). -/
theorem trunc8_rotateLeft16 (v : Byte) (c : Bool) : trunc8 (rotateLeft16 v c) = v.extractLsb' 0 7 ++ BitVec.ofBool c := by
  apply BitVec.eq_of_getLsbD_eq
  intro i hi
  simp only [trunc8, rotateLeft16, zext16, bit8, BitVec.getLsbD_setWidth, BitVec.getLsbD_or, BitVec.getLsbD_append,
    BitVec.getLsbD_extractLsb', BitVec.getLsbD_shiftLeft]
  interval_cases i <;> cases c <;> simp

/-- RRF's result (R140). -/
theorem trunc8_rotateRight16 (v : Byte) (c : Bool) : trunc8 (rotateRight16 v c) = BitVec.ofBool c ++ v.extractLsb' 1 7 := by
  apply BitVec.eq_of_getLsbD_eq
  intro i hi
  simp only [trunc8, rotateRight16, zext16, bit8, BitVec.getLsbD_setWidth, BitVec.getLsbD_or, BitVec.getLsbD_append,
    BitVec.getLsbD_extractLsb', BitVec.getLsbD_shiftLeft, BitVec.getLsbD_ushiftRight]
  interval_cases i <;> cases c <;> simp

theorem leftCarryOut_of_default {c : Config} (h : c.rotateCarryLiteral = false) (v : Byte) :
    leftCarryOut c v = v.getLsbD 7 := by
  simp [leftCarryOut, h]

theorem rightCarryOut_of_default {c : Config} (h : c.rotateCarryLiteral = false) (v : Byte) :
    rightCarryOut c v = v.getLsbD 0 := by
  simp [rightCarryOut, h]

/-- The source's literal formula of RLF holds for 0 and 1 only. -/
theorem leftCarryOut_of_literal {c : Config} (h : c.rotateCarryLiteral = true) (v : Byte) :
    leftCarryOut c v = decide (v.toNat ≤ 1) := by
  have hv : ∀ v : Byte, (v ||| 1#8 == 1#8) = decide (v.toNat ≤ 1) := by decide
  simp only [leftCarryOut, h, if_true, hv]

/-- The source's literal formula of RRF always holds: one bit is left. -/
theorem rightCarryOut_of_literal {c : Config} (h : c.rotateCarryLiteral = true) (v : Byte) : rightCarryOut c v = true := by
  have hv : ∀ v : Byte, ((v >>> 7) ||| 1#8 == 1#8) = true := by decide
  simp only [rightCarryOut, h, if_true, hv]

section Effect

variable {s t : State} {f : RegAddr} {d : Dest} {r : Byte} {cout : Bool}

/-- RLF at any state with legal parameters and a canonical register file; both stay so. -/
theorem execRlf_effect (hl : s.config.Legal) (hw : s.rf.wf = true) (hc : leftCarryOut s.config (s.memRead f) = cout)
    (hr : (s.memRead f).extractLsb' 0 7 ++ BitVec.ofBool s.flagC = r) :
    ∃ t, exec (.rlf f d) s = .next t ∧ t.rf.wf = true ∧ AluEffect f d r (rotateWrites cout r) 1 s t := by
  have hr' : trunc8 (rotateLeft16 (s.memRead f) s.carryIn) = r := (trunc8_rotateLeft16 ..).trans hr
  subst hc hr'
  exact finishRotate_effect_of hl hw f d _ _

/-- RRF at any state with legal parameters and a canonical register file; both stay so. -/
theorem execRrf_effect (hl : s.config.Legal) (hw : s.rf.wf = true) (hc : rightCarryOut s.config (s.memRead f) = cout)
    (hr : BitVec.ofBool s.flagC ++ (s.memRead f).extractLsb' 1 7 = r) :
    ∃ t, exec (.rrf f d) s = .next t ∧ t.rf.wf = true ∧ AluEffect f d r (rotateWrites cout r) 1 s t := by
  have hr' : trunc8 (rotateRight16 (s.memRead f) s.carryIn) = r := (trunc8_rotateRight16 ..).trans hr
  subst hc hr'
  exact finishRotate_effect_of hl hw f d _ _

/-- Settles O27: both rotates at the default carry-out. -/
theorem rotatesThroughCarry : Obligations.RotatesThroughCarry := by
  intro f d s hi hlit
  obtain ⟨t, ht, -, hte⟩ := execRlf_effect (d := d) hi.1 hi.2.1 (leftCarryOut_of_default hlit (s.memRead f)) rfl
  obtain ⟨u, hu, -, hue⟩ := execRrf_effect (d := d) hi.1 hi.2.1 (rightCarryOut_of_default hlit (s.memRead f)) rfl
  exact ⟨⟨decode_formatA 0xC#4 d f, t, ht, hte⟩, decode_formatA 0xD#4 d f, u, hu, hue⟩

/-- Settles O28: both rotates at the closed forms of the literal carry-outs. -/
theorem rotatesWithLiteralCarry : Obligations.RotatesWithLiteralCarry := by
  intro f d s hi hlit
  obtain ⟨t, ht, -, hte⟩ := execRlf_effect (d := d) hi.1 hi.2.1 (leftCarryOut_of_literal hlit (s.memRead f)) rfl
  obtain ⟨u, hu, -, hue⟩ := execRrf_effect (d := d) hi.1 hi.2.1 (rightCarryOut_of_literal hlit (s.memRead f)) rfl
  exact ⟨⟨t, ht, hte⟩, u, hu, hue⟩

/-! ### The 9-bit value C:F[f]. -/

/-- A rotate's carry-out is C of the next state, at whatever register. -/
theorem AluEffect.flagC_eq (h : AluEffect f d r (rotateWrites cout r) 1 s t) (hl : s.config.Legal) : t.flagC = cout := by
  obtain ⟨⟨-, -, hS⟩, -, -, -, -, hc, -⟩ := h
  have hcz : s.config.cBit ≠ s.config.zBit := hl.2.2.2.1
  rw [State.flagC, hc, hS]
  simp [FlagWrites.bit, rotateWrites, hcz]

/-- C over a byte. -/
def carryOver (c : Bool) (v : Byte) : BitVec 9 := BitVec.ofBool c ++ v

theorem getLsbD_carryOver (c : Bool) (v : Byte) : (carryOver c v).getLsbD 8 = c := by
  simp only [carryOver, BitVec.getLsbD_append]; simp

theorem carryOver_inj {c c' : Bool} {v v' : Byte} : carryOver c v = carryOver c' v' ↔ v = v' ∧ c = c' := by
  refine ⟨fun h => ?_, fun ⟨hv, hc⟩ => by rw [hv, hc]⟩
  have hc : c = c' := by rw [← getLsbD_carryOver c v, h, getLsbD_carryOver]
  subst hc
  exact ⟨(BitVec.append_right_inj _).1 h, rfl⟩

theorem carryOver_rlf (c : Bool) (v : Byte) :
    carryOver (v.getLsbD 7) (v.extractLsb' 0 7 ++ BitVec.ofBool c) = (carryOver c v).rotateLeft 1 := by
  apply BitVec.eq_of_getLsbD_eq
  intro i hi
  simp only [carryOver, BitVec.getLsbD_rotateLeft, BitVec.getLsbD_append, BitVec.getLsbD_extractLsb',
    BitVec.getLsbD_ofBool]
  interval_cases i <;> simp

theorem carryOver_rrf (c : Bool) (v : Byte) :
    carryOver (v.getLsbD 0) (BitVec.ofBool c ++ v.extractLsb' 1 7) = (carryOver c v).rotateRight 1 := by
  apply BitVec.eq_of_getLsbD_eq
  intro i hi
  simp only [carryOver, BitVec.getLsbD_rotateRight, BitVec.getLsbD_append, BitVec.getLsbD_extractLsb',
    BitVec.getLsbD_ofBool]
  interval_cases i <;> simp

/-- What a rotate of register `f` needs and keeps; `running` and the outcome port are no part of it. -/
structure Rotatable (f : RegAddr) (s : State) : Prop where
  legal : s.config.Legal
  wf : s.rf.wf = true
  default : s.config.rotateCarryLiteral = false
  ne : f ≠ s.config.statusAddr

/-- `C:F[f]`. -/
def State.nine (s : State) (f : RegAddr) : BitVec 9 := carryOver s.flagC (s.memRead f)

theorem State.nine_eq_iff : t.nine f = s.nine f ↔ t.memRead f = s.memRead f ∧ t.flagC = s.flagC := carryOver_inj

/-- A rotate of register `f` in place leaves its result and its carry-out there. -/
theorem AluEffect.rotated (h : AluEffect f .f r (rotateWrites cout r) 1 s t) (hs : Rotatable f s) (ht : t.rf.wf = true) :
    Rotatable f t ∧ t.nine f = carryOver cout r := by
  have hC := h.flagC_eq hs.legal
  obtain ⟨⟨-, hA, -⟩, -, -, -, -, hc, -⟩ := h
  refine ⟨⟨hc ▸ hs.legal, ht, hc ▸ hs.default, hc ▸ hs.ne⟩, ?_⟩
  rw [State.nine, hC, hA f hs.ne, if_pos ⟨rfl, rfl⟩]

theorem exec_rlf_nine (hs : Rotatable f s) :
    ∃ t, exec (.rlf f .f) s = .next t ∧ Rotatable f t ∧ t.nine f = (s.nine f).rotateLeft 1 := by
  obtain ⟨t, ht, hw, he⟩ := execRlf_effect (d := .f) hs.legal hs.wf (leftCarryOut_of_default hs.default (s.memRead f)) rfl
  obtain ⟨hr, hn⟩ := he.rotated hs hw
  exact ⟨t, ht, hr, hn.trans (carryOver_rlf ..)⟩

theorem exec_rrf_nine (hs : Rotatable f s) :
    ∃ t, exec (.rrf f .f) s = .next t ∧ Rotatable f t ∧ t.nine f = (s.nine f).rotateRight 1 := by
  obtain ⟨t, ht, hw, he⟩ := execRrf_effect (d := .f) hs.legal hs.wf (rightCarryOut_of_default hs.default (s.memRead f)) rfl
  obtain ⟨hr, hn⟩ := he.rotated hs hw
  exact ⟨t, ht, hr, hn.trans (carryOver_rrf ..)⟩

/-- `n` rotates in place turn `C:F[f]` `n` times. -/
theorem execTimes_nine {i : Instr} {turn : BitVec 9 → BitVec 9}
    (hstep : ∀ s, Rotatable f s → ∃ t, exec i s = .next t ∧ Rotatable f t ∧ t.nine f = turn (s.nine f)) (n : Nat)
    (s : State) (hs : Rotatable f s) : ∃ t, execTimes i n s = some t ∧ t.nine f = turn^[n] (s.nine f) := by
  induction n generalizing s with
  | zero => exact ⟨s, rfl, rfl⟩
  | succ n ih =>
    obtain ⟨u, hu, hur, hun⟩ := hstep s hs
    obtain ⟨t, ht, htn⟩ := ih u hur
    exact ⟨t, by rw [execTimes, hu]; exact ht, by rw [htn, hun, Function.iterate_succ_apply]⟩

end Effect

/-! ### Turns of nine bits. -/

theorem rotateRight_rotateLeft_one : ∀ v : BitVec 9, (v.rotateLeft 1).rotateRight 1 = v := by decide

theorem rotateLeft_rotateRight_one : ∀ v : BitVec 9, (v.rotateRight 1).rotateLeft 1 = v := by decide

/-- Eight turns are one turn back. -/
theorem rotateLeft_eight_times : ∀ v : BitVec 9, (BitVec.rotateLeft · 1)^[8] v = v.rotateRight 1 := by decide

theorem rotateLeft_nine_times (v : BitVec 9) : (BitVec.rotateLeft · 1)^[9] v = v := by
  rw [Function.iterate_succ_apply', rotateLeft_eight_times, rotateLeft_rotateRight_one]

/-- Nine turns back undo nine turns, which change nothing. -/
theorem rotateRight_nine_times (v : BitVec 9) : (BitVec.rotateRight · 1)^[9] v = v := by
  have hinv : Function.LeftInverse (fun v : BitVec 9 => v.rotateRight 1) (fun v => v.rotateLeft 1) :=
    rotateRight_rotateLeft_one
  have h := hinv.iterate 9 v
  rwa [rotateLeft_nine_times] at h

/-- Only a value of equal bits survives one turn. -/
theorem rotateRight_one_eq_self_iff :
    ∀ v : BitVec 9, v.rotateRight 1 = v ↔ v = carryOver false 0x00#8 ∨ v = carryOver true 0xFF#8 := by decide

/-- Settles O29: in place a rotate turns `C:F[f]` by one place (`exec_rlf_nine`, `exec_rrf_nine`), so the laws are those of
turns of nine bits; with `d = 0` the turned value is C and `W`, at every register. -/
theorem rotateLaws : Obligations.RotateLaws := by
  intro f s hi hlit
  refine ⟨fun hf => ?_, ?_, ?_⟩
  · have hs : Rotatable f s := ⟨hi.1, hi.2.1, hlit, hf⟩
    refine ⟨?_, ?_, ?_, ?_, ?_⟩
    · obtain ⟨t, ht, hn⟩ := execTimes_nine (turn := (·.rotateLeft 1)) (fun _ => exec_rlf_nine) 9 s hs
      exact ⟨t, ht, State.nine_eq_iff.1 (hn.trans (rotateLeft_nine_times _))⟩
    · obtain ⟨t, ht, hn⟩ := execTimes_nine (turn := (·.rotateRight 1)) (fun _ => exec_rrf_nine) 9 s hs
      exact ⟨t, ht, State.nine_eq_iff.1 (hn.trans (rotateRight_nine_times _))⟩
    · obtain ⟨t, ht, hn⟩ := execTimes_nine (turn := (·.rotateLeft 1)) (fun _ => exec_rlf_nine) 8 s hs
      refine ⟨t, ht, ?_⟩
      rw [← State.nine_eq_iff, hn, rotateLeft_eight_times, rotateRight_one_eq_self_iff, State.nine, carryOver_inj,
        carryOver_inj]
    · obtain ⟨t, ht, htr, htn⟩ := exec_rlf_nine hs
      obtain ⟨u, hu, -, hun⟩ := exec_rrf_nine htr
      exact ⟨t, u, ht, hu, State.nine_eq_iff.1 (by rw [hun, htn, rotateRight_rotateLeft_one])⟩
    · obtain ⟨t, ht, htr, htn⟩ := exec_rrf_nine hs
      obtain ⟨u, hu, -, hun⟩ := exec_rlf_nine htr
      exact ⟨t, u, ht, hu, State.nine_eq_iff.1 (by rw [hun, htn, rotateLeft_rotateRight_one])⟩
  · obtain ⟨t, ht, -, he⟩ := execRlf_effect (d := .w) hi.1 hi.2.1 (leftCarryOut_of_default hlit (s.memRead f)) rfl
    refine ⟨t, ht, ?_⟩
    rw [he.flagC_eq hi.1, he.1.1, if_pos rfl]
    exact carryOver_rlf ..
  · obtain ⟨t, ht, -, he⟩ := execRrf_effect (d := .w) hi.1 hi.2.1 (rightCarryOut_of_default hlit (s.memRead f)) rfl
    refine ⟨t, ht, ?_⟩
    rw [he.flagC_eq hi.1, he.1.1, if_pos rfl]
    exact carryOver_rrf ..

end Sys2Proof.Machine
end

section
/-! PROOFS. The closed forms of the carry vectors as statements (R111, R112). -/

namespace Sys2Proof.Machine

/-- Settles O42: the bits are `addC` and `addDC`. -/
theorem additionCarryVectorClosedForm : Obligations.AdditionCarryVectorClosedForm := by
  intro x y
  rw [addVector_bit8, addVector_bit4, addC, addDC, decide_eq_true_iff, decide_eq_true_iff]
  exact ⟨Iff.rfl, Iff.rfl⟩

/-- Settles O43: the bits are `subC` and `subDC`. -/
theorem subtractionCarryVectorClosedForm : Obligations.SubtractionCarryVectorClosedForm := by
  intro x y
  rw [subVector_bit8, subVector_bit4, subC, subDC, decide_eq_true_iff, decide_eq_true_iff]
  exact ⟨Iff.rfl, Iff.rfl⟩

end Sys2Proof.Machine
end

section
/-! PROOFS. The returns (R122, R123, R183). -/

namespace Sys2Proof.Machine

variable {s : State}

/-- RETURN with an entry on the stack (R122). -/
theorem execReturn_of_stack_concat {e : Nat} {rest : List Nat} (h : s.stack = rest ++ [e]) :
    execReturn s = finish (State.setPc { s with stack := rest } e) := by
  rw [execReturn, State.pop_concat h]

/-- RETFIE with an entry on the stack (R123). -/
theorem execRetfie_of_stack_concat {e : Nat} {rest : List Nat} (h : s.stack = rest ++ [e]) :
    execRetfie s = finish (State.setPc { s with stack := rest } e).setGie := by
  rw [execRetfie, State.pop_concat h]

/-- RETURN and RETFIE fault on an empty stack (R221). -/
theorem exec_ret_of_stack_empty (h : s.stack = []) : exec .ret s = .fault .stackEmpty :=
  exec_of_faultOf_eq_some (if_pos h)

theorem exec_retfie_of_stack_empty (h : s.stack = []) : exec .retfie s = .fault .stackEmpty :=
  exec_of_faultOf_eq_some (if_pos h)

/-- Settles O17: a jump to the popped address, which a legal state holds reduced. -/
theorem returnPopsPc : Obligations.ReturnPopsPc :=
  ⟨rfl, fun _ _ _ hi hs => (execReturn_of_stack_concat hs).trans (finish_setPc_of_mod_eq (hi.top_mod hs)),
    fun _ => exec_ret_of_stack_empty⟩

/-- Setting GIE replaces that bit of INTCON. -/
theorem State.intcon_setGie (h : s.rf.wf = true) (i : Fin 8) :
    s.setGie.intcon.getLsbD i.val = if i = s.config.gieBit then true else s.intcon.getLsbD i.val := by
  rw [State.intcon, State.setGie_config, State.memRead_setGie h, if_pos rfl]
  exact (getLsbD_or_bitMask s.intcon (BitVec.ofFin s.config.gieBit) i).trans (if_congr Fin.ext_iff.symm rfl rfl)

theorem State.memRead_setGie_ne (h : s.rf.wf = true) {a : RegAddr} (ha : a ≠ s.config.intconAddr) :
    s.setGie.memRead a = s.memRead a := by
  rw [State.memRead_setGie h, if_neg ha.symm]

/-- Settles O18: a RETURN whose next state has GIE set in INTCON. -/
theorem retfiePopsPcAndSetsGie : Obligations.RetfiePopsPcAndSetsGie := by
  refine ⟨rfl, fun s e rest hi hs => ?_, fun _ => exec_retfie_of_stack_empty⟩
  have hwf : (State.setPc { s with stack := rest } e).rf.wf = true := hi.2.1
  refine ⟨_, execRetfie_of_stack_concat hs, hi.top_mod hs, rfl, rfl, rfl, rfl, rfl, rfl, fun a ha => ?_, ?_⟩
  · exact State.memRead_setGie_ne hwf ha
  · exact State.intcon_setGie hwf

/-- A return that completes pops into `PC`, whichever of the three it is. -/
theorem exec_return {i : Instr} (hi : i = .ret ∨ i = .retfie ∨ ∃ l, i = .retlw l) {e : Nat} {rest : List Nat}
    (h : s.stack = rest ++ [e]) : ∃ v, exec i s = .next v ∧ v.pc = e % 2 ^ s.config.pcWidth ∧ v.stack = rest := by
  rcases hi with rfl | rfl | ⟨l, rfl⟩
  · exact ⟨_, execReturn_of_stack_concat h, rfl, rfl⟩
  · exact ⟨_, execRetfie_of_stack_concat h, rfl, rfl⟩
  · exact ⟨_, execRetlw_of_stack_concat h l, rfl, rfl⟩

/-- Settles O35: CALL leaves `PC + 1`, reduced, on top of the old stack, and each return pops it into `PC`. -/
theorem callAndReturnPair : Obligations.CallAndReturnPair := by
  intro k s hi hroom
  obtain ⟨-, hcall, -⟩ := callPushesAndJumps k s hi
  refine ⟨_, hcall hroom, rfl, fun u hc hu i hret => ?_⟩
  obtain ⟨v, hv, hpc, hst⟩ := exec_return hret hu
  exact ⟨v, hv, by rw [hpc, hc, Nat.mod_mod], hst⟩

end Sys2Proof.Machine
end

section
/-! PROOFS. Stepping, the ports, session creation and standby (R40, R42, R100, R232, R241 to R249). -/

namespace Sys2Proof.Machine

variable {s : State}

/-- A step at a live state is the dispatch of the word at `PC`. -/
theorem step_of_lookup {x : Word} (hl : s.Live) (hx : s.program.lookup s.pc = some x) : step s = exec (decode x) s := by
  rcases step_cases s with ⟨hn, -⟩ | ⟨-, hnone, -⟩ | ⟨-, y, hy, hs⟩
  · exact absurd hl hn
  · cases hnone.symm.trans hx
  · cases hy.symm.trans hx; exact hs

/-- Settles O6. -/
theorem stepRunsTheDecodedInstruction : Obligations.StepRunsTheDecodedInstruction :=
  fun _ x hl hx => ⟨(isWordOf_decode x).1, rfl, step_of_lookup hl hx⟩

theorem State.withFetchWord_eq (s : State) (x : Word) : s.withFetchWord 16 x.toNat = s.placeAtPc x := by
  rw [State.withFetchWord, Nat.mod_eq_of_lt x.isLt, BitVec.ofNat_toNat, BitVec.setWidth_eq]

/-- Settles O7: the placed word is the one looked up at `PC`, and at no other address. -/
theorem placedWordRunsNext : Obligations.PlacedWordRunsNext := by
  intro s x hl
  rw [State.withFetchWord_eq]
  refine ⟨step_of_lookup hl ?_, fun a ha => ?_, rfl, rfl, rfl, rfl, rfl, rfl, rfl⟩
  · exact (Program.lookup_place ..).trans (if_pos rfl)
  · exact (Program.lookup_place ..).trans (if_neg ha.symm)

/-- Settles O8: a step of a state that is not live is refused, and a live state without a word is stuck. -/
theorem noStepWhereTheSpecGivesNone : Obligations.NoStepWhereTheSpecGivesNone := by
  refine ⟨fun s hl hx => ?_, fun s hr => step_of_not_live fun hl => ?_, fun s hs => step_of_not_live fun hl => hs hl.2⟩
  · rcases step_cases s with ⟨hn, -⟩ | ⟨-, -, hs⟩ | ⟨-, y, hy, -⟩
    · exact absurd hl hn
    · exact hs
    · cases hx.symm.trans hy
  · cases hr.symm.trans hl.1

/-- Settles O9: the ports are read off for each signal. -/
theorem outcomePortsCarryTheirCodes : Obligations.OutcomePortsCarryTheirCodes := by
  intro s t
  refine ⟨fun h => ?_, fun h => ?_, fun k h => ?_⟩ <;> rw [ports, h] <;> rfl

/-- Settles O49: creation sets the fields, and 0 and the empty stack are within every legal bound. -/
theorem sessionStartsAsSpecified : Obligations.SessionStartsAsSpecified := by
  refine fun c w0 rf0 image => ⟨rfl, fun _ => rfl, rfl, rfl, rfl, fun hc hrf himg => ⟨?_, rfl, rfl⟩⟩
  exact ⟨hc, hrf, himg, Nat.two_pow_pos _, Nat.zero_le _, nofun, rfl⟩

/-- Settles O50: the reset state is the session with the default parameters and empty stores. -/
theorem resetStateIsLegal : Obligations.ResetStateIsLegal := by
  obtain ⟨-, -, hpc, hst, -, hlegal⟩ := sessionStartsAsSpecified Config.default 0#8 [] []
  obtain ⟨hi, hl⟩ := hlegal (by decide) rfl rfl
  exact ⟨hi, hl, rfl, hpc, hst⟩

/-- Settles O19: `execSleep` is the advance and the STANDBY signal by definition. -/
theorem sleepAdvancesAndSignalsStandby : Obligations.SleepAdvancesAndSignalsStandby :=
  ⟨rfl, fun _ => rfl⟩

/-- Settles O53: after STANDBY the state is not live; resumed, it is, at the advanced `PC`. -/
theorem standbyResumesAtTheNextWord : Obligations.StandbyResumesAtTheNextWord := by
  intro s hr
  refine ⟨_, rfl, step_of_not_live nofun, rfl, rfl, fun x hx => ?_⟩
  exact step_of_lookup ⟨hr, rfl⟩ hx

end Sys2Proof.Machine
end

section
/-! PROOFS. The table of R24: `PC` after each instruction. -/

namespace Sys2Proof.Machine

variable {s u : State} (f : RegAddr) (d : Dest) (res : Word)

/-! ### `PC` after the shared ends. -/

theorem finishZ_pc : (stateAfter s (finishZ f d res s)).pc = pcPlus s 1 := by
  simp [finishZ, finish, stateAfter, pcPlus]

theorem finishRotate_pc (cout : Bool) : (stateAfter s (finishRotate f d res cout s)).pc = pcPlus s 1 := by
  simp [finishRotate, finish, stateAfter, pcPlus]

theorem finishSkipIfZero_pc {r : Byte} (hr : trunc8 res = r) :
    (stateAfter s (finishSkipIfZero f d res s)).pc = pcPlus s (if r = 0#8 then 2 else 1) := by
  simp [finishSkipIfZero, finish, stateAfter, pcPlus, hr]

/-- The returns go to the popped address; where there is none, RETURN and RETFIE fault and RETLW exits, and `PC` stays. -/
theorem return_pc (hi : s.Inv) {i : Instr} (hret : i = .ret ∨ i = .retfie ∨ ∃ l, i = .retlw l) :
    (stateAfter s (exec i s)).pc = topOrPc s := by
  rcases s.pop_cases with ⟨hs, -⟩ | ⟨e, rest, hs, -⟩
  · have htop : topOrPc s = s.pc := by simp [topOrPc, hs]
    rw [htop]
    rcases hret with rfl | rfl | ⟨l, rfl⟩
    · rw [exec_ret_of_stack_empty hs]; rfl
    · rw [exec_retfie_of_stack_empty hs]; rfl
    · rw [exec, execRetlw_of_stack_empty l hs]; rfl
  · have htop : topOrPc s = e := by simp [topOrPc, hs]
    obtain ⟨v, hv, hpc, -⟩ := exec_return hret hs
    rw [htop, hv, stateAfter, hpc, hi.top_mod hs]

theorem call_pc (hi : s.Inv) (k : BitVec 11) : (stateAfter s (exec (.call k) s)).pc = nextPc (.call k) s := by
  obtain ⟨-, hroom, hfull⟩ := callPushesAndJumps k s hi
  rw [nextPc]
  split
  · next h => rw [(hfull h).1]; rfl
  · next h => rw [hroom (lt_of_le_of_ne hi.2.2.2.2.1 h)]; rfl

/-- Settles O54: the data ends advance or skip (`finishZ_pc` and its like), the returns go to the popped address (`return_pc`),
CALL and GOTO to their targets. -/
theorem nextPcFollowsTheTable : Obligations.NextPcFollowsTheTable := by
  intro i s hi
  cases i with
  | ret => exact return_pc hi (.inl rfl)
  | retfie => exact return_pc hi (.inr (.inl rfl))
  | retlw l => exact return_pc hi (.inr (.inr ⟨l, rfl⟩))
  | call k => exact call_pc hi k
  | goto k => exact hi.target_mod k
  | decf f d | iorwf f d | andwf f d | xorwf f d | movf f d | comf f d | incf f d => exact finishZ_pc f d _
  | rlf f d | rrf f d => exact finishRotate_pc f d _ _
  | decfsz f d => exact finishSkipIfZero_pc f d _ (trunc8_diff16 ..)
  | incfsz f d => exact finishSkipIfZero_pc f d _ (trunc8_sum16 ..)
  | addwf f d | subwf f d | swapf f d => cases d <;> rfl
  | btfsc f b => simp [exec, execBtfsc, finish, stateAfter, nextPc, pcPlus]
  | btfss f b => simp [exec, execBtfss, finish, stateAfter, nextPc, pcPlus]
  | nop | sleep | invalidC0 | movwf | clrw | clrf | bcf | bsf | movlw | iorlw | andlw | xorlw | invalidL | sublw | addlw
  | invalidClass1 | invalidClass2 | invalidClass3 => rfl

end Sys2Proof.Machine
end

section
/-! PROOFS. The data effect of an instruction as a value: what it writes where, as a function of what it reads. -/

namespace Sys2Proof.Machine

/-- A result for a destination, flag writes, and an advance (the arguments of `AluEffect`). -/
structure DataEffect where
  f : RegAddr
  d : Dest
  r : Byte
  fl : FlagWrites
  n : Nat

/-- The data effect at a state of an instruction that ends OK with an advance; `none` for the others. An instruction that
writes neither a register nor `W` gives `W` its own value. -/
def dataEffect (s : State) : Instr → Option DataEffect
  | .nop => some ⟨0#7, .w, s.w, {}, 1⟩
  | .ret => none
  | .retfie => none
  | .sleep => none
  | .invalidC0 _ => none
  | .movwf f => some ⟨f, .f, s.w, {}, 1⟩
  | .clrw => some ⟨0#7, .w, 0#8, zOnly 0#8, 1⟩
  | .clrf f => some ⟨f, .f, 0#8, zOnly 0#8, 1⟩
  | .subwf f d => some ⟨f, d, s.memRead f - s.w, subWrites (s.memRead f) s.w, 1⟩
  | .decf f d => some ⟨f, d, s.memRead f - 1#8, zOnly (s.memRead f - 1#8), 1⟩
  | .iorwf f d => some ⟨f, d, s.memRead f ||| s.w, zOnly (s.memRead f ||| s.w), 1⟩
  | .andwf f d => some ⟨f, d, s.memRead f &&& s.w, zOnly (s.memRead f &&& s.w), 1⟩
  | .xorwf f d => some ⟨f, d, s.memRead f ^^^ s.w, zOnly (s.memRead f ^^^ s.w), 1⟩
  | .addwf f d => some ⟨f, d, s.memRead f + s.w, addWrites (s.memRead f) s.w, 1⟩
  | .movf f d => some ⟨f, d, s.memRead f, zOnly (s.memRead f), 1⟩
  | .comf f d => some ⟨f, d, ~~~(s.memRead f), zOnly (~~~(s.memRead f)), 1⟩
  | .incf f d => some ⟨f, d, s.memRead f + 1#8, zOnly (s.memRead f + 1#8), 1⟩
  | .decfsz f d => some ⟨f, d, s.memRead f - 1#8, {}, if s.memRead f = 1#8 then 2 else 1⟩
  | .rlf f d =>
    let r := trunc8 (rotateLeft16 (s.memRead f) s.flagC)
    some ⟨f, d, r, rotateWrites (leftCarryOut s.config (s.memRead f)) r, 1⟩
  | .rrf f d =>
    let r := trunc8 (rotateRight16 (s.memRead f) s.flagC)
    some ⟨f, d, r, rotateWrites (rightCarryOut s.config (s.memRead f)) r, 1⟩
  | .swapf f d => some ⟨f, d, swapNibbles (s.memRead f), {}, 1⟩
  | .incfsz f d => some ⟨f, d, s.memRead f + 1#8, {}, if s.memRead f = 0xFF#8 then 2 else 1⟩
  | .bcf f b => some ⟨f, .f, s.memRead f &&& not8 (bitMask b.toNat), {}, 1⟩
  | .bsf f b => some ⟨f, .f, s.memRead f ||| bitMask b.toNat, {}, 1⟩
  | .btfsc f b => some ⟨f, .w, s.w, {}, if (!(s.memRead f).getLsbD b.toNat) = true then 2 else 1⟩
  | .btfss f b => some ⟨f, .w, s.w, {}, if (s.memRead f).getLsbD b.toNat = true then 2 else 1⟩
  | .call _ => none
  | .goto _ => none
  | .movlw k => some ⟨0#7, .w, k, {}, 1⟩
  | .retlw _ => none
  | .iorlw k => some ⟨0#7, .w, k ||| s.w, zOnly (k ||| s.w), 1⟩
  | .andlw k => some ⟨0#7, .w, k &&& s.w, zOnly (k &&& s.w), 1⟩
  | .xorlw k => some ⟨0#7, .w, k ^^^ s.w, zOnly (k ^^^ s.w), 1⟩
  | .invalidL => none
  | .sublw k => some ⟨0#7, .w, k - s.w, subWrites k s.w, 1⟩
  | .addlw k => some ⟨0#7, .w, k + s.w, addWrites k s.w, 1⟩
  | .invalidClass1 => none
  | .invalidClass2 => none
  | .invalidClass3 => none

variable {i : Instr} {s t : State} {e : DataEffect}

/-- The data effect is what the instruction does. -/
theorem exec_of_dataEffect (hi : s.Inv) (h : dataEffect s i = some e) :
    ∃ t, exec i s = .next t ∧ AluEffect e.f e.d e.r e.fl e.n s t := by
  cases i with
  | nop => cases h; exact finish_writeDest_effect hi 0#7 .w s.w 1
  | movwf f => cases h; exact finish_writeDest_effect hi f .f s.w 1
  | clrw => cases h; exact finishZ_effect hi 0#7 .w 0#16
  | clrf f => cases h; exact finishZ_effect hi f .f 0#16
  | subwf f d => cases h; exact (subwfResultFlagsFrame f d s hi).2
  | addwf f d => cases h; exact (addwfResultFlagsFrame f d s hi).2
  | decf f d => cases h; exact (decfIncfResultZFrame f d s hi).1.2
  | incf f d => cases h; exact (decfIncfResultZFrame f d s hi).2.2
  | iorwf f d | andwf f d | xorwf f d | movf f d => cases h; exact finishZ_effect_of_trunc8 hi f d (trunc8_zext16 _)
  | comf f d => cases h; exact (movfComfResultZFrame f d s hi).2.2
  | decfsz f d => cases h; exact (skipIfZeroResultAndAdvance f d s hi).1.2
  | incfsz f d => cases h; exact (skipIfZeroResultAndAdvance f d s hi).2.2
  | rlf f d | rrf f d => cases h; exact finishRotate_effect hi f d _ _
  | swapf f d => cases h; exact finish_writeDest_effect hi f d _ 1
  | bcf f b | bsf f b => cases h; exact finish_writeDest_effect hi f .f _ 1
  | btfsc f b | btfss f b => cases h; exact finish_writeDest_effect hi f .w s.w _
  | movlw k => cases h; exact finish_writeDest_effect hi 0#7 .w k 1
  | iorlw k | andlw k | xorlw k => cases h; exact finishLiteralZ_effect_of_trunc8 hi (trunc8_zext16 _)
  | sublw k => cases h; exact sublwResultFlagsFrame.2 k s hi
  | addlw k => cases h; exact addlwResultFlagsFrame.2 k s hi
  | ret | retfie | sleep | invalidC0 | call | goto | retlw | invalidL | invalidClass1 | invalidClass2 | invalidClass3 =>
    cases h

/-- Flag writes that leave every flag outside a set alone. -/
structure FlagWrites.Within (fl : FlagWrites) (fs : FlagSet) : Prop where
  dc : fs.dc = false → fl.dc = none
  c : fs.c = false → fl.c = none
  z : fs.z = false → fl.z = none

/-- A data effect writes no flag that the table of R114 does not list. -/
theorem dataEffect_flags (h : dataEffect s i = some e) : e.fl.Within (flagsWritten i) := by
  cases i <;> cases h <;>
    exact ⟨by simp [flagsWritten, zOnly, rotateWrites], by simp [flagsWritten, zOnly], by simp [flagsWritten]⟩

theorem dataEffect_dest (h : dataEffect s i = some e) : dataDest i = destReg e.f e.d := by
  cases i <;> cases h <;> rfl

/-! ### The instructions without a data effect. -/

/-- The state with another register file. -/
def State.withRf (s : State) (m : Memory) : State := { s with rf := m }

/-- The answer of a dispatch with another register file in the next state, if there is one. -/
def overwriteRf (m : Memory) : DispatchResult → DispatchResult
  | .next t => .next (t.withRf m)
  | .fault k => .fault k
  | .refused r => .refused r

theorem State.pop_withRf (s : State) (m : Memory) : (s.withRf m).pop = s.pop.map fun p => (p.1, p.2.withRf m) := by
  rcases s.pop_cases with ⟨h, hp⟩ | ⟨e, rest, h, hp⟩
  · rw [hp, State.pop_empty (s := s.withRf m) h]; rfl
  · rw [hp, State.pop_concat (s := s.withRf m) h]; rfl

theorem State.push_withRf (s : State) (m : Memory) (v : Nat) : (s.withRf m).push v = (s.push v).map (·.withRf m) := by
  rcases s.push_cases v with ⟨h, hp⟩ | ⟨h, hp⟩
  · rw [hp, State.push_full (s := s.withRf m) h]; rfl
  · rw [hp, State.push_room (s := s.withRf m) h]; rfl

/-- An instruction without a data effect, RETFIE apart, neither reads nor writes a register. -/
theorem exec_withRf (h : dataEffect s i = none) (hr : i ≠ .retfie) (m : Memory) :
    exec i (s.withRf m) = overwriteRf m (exec i s) := by
  cases i with
  | ret =>
    simp only [exec, execReturn, State.pop_withRf]
    cases s.pop <;> rfl
  | retlw k =>
    simp only [exec, execRetlw, State.pop_withRf]
    cases s.pop <;> rfl
  | call k =>
    have hp : (s.withRf m).push (s.withRf m).returnAddr = (s.push s.returnAddr).map (·.withRf m) :=
      State.push_withRf s m s.returnAddr
    simp only [exec, execCall, hp]
    cases s.push s.returnAddr <;> rfl
  | sleep | invalidC0 | goto | invalidL | invalidClass1 | invalidClass2 | invalidClass3 => rfl
  | retfie => exact absurd rfl hr
  | _ => cases h

theorem exec_rf (h : dataEffect s i = none) (hr : i ≠ .retfie) (ht : exec i s = .next t) : t.rf = s.rf := by
  have e : exec i s = overwriteRf s.rf (exec i s) := exec_withRf h hr s.rf
  rw [ht] at e
  have et : t = t.withRf s.rf := Host.Outcome.next.inj e
  rw [et]; rfl

end Sys2Proof.Machine
end

section
/-! PROOFS. The status byte and INTCON change only by their writers (R30, R31, R114). -/

namespace Sys2Proof.Machine

variable {i : Instr} {s t : State} {f : RegAddr} {d : Dest} {r : Byte} {fl : FlagWrites} {e : DataEffect}

/-- A bit that is none of the flags written is the bit before the flag writes. -/
theorem FlagWrites.Within.bit {fs : FlagSet} (h : fl.Within fs) {cfg : Config} {b : Fin 8} (hs : fs.spares cfg b)
    (base : Byte) : fl.bit cfg base b = base.getLsbD b.val := by
  obtain ⟨hdc, hc, hz⟩ := hs
  rw [FlagWrites.bit]
  split_ifs with h1 h2 h3
  · rw [h.z (hz h1)]; rfl
  · rw [h.c (hc h2)]; rfl
  · rw [h.dc (hdc h3)]; rfl
  · rfl

theorem destReg_eq_some_iff {a : RegAddr} : destReg f d = some a ↔ d = .f ∧ f = a := by
  cases d <;> simp [destReg]

/-- A register other than the destination and the status byte. -/
theorem Wrote.memRead_of_ne {a : RegAddr} (h : Wrote f d r fl s t) (ha : a ≠ s.config.statusAddr)
    (hd : destReg f d ≠ some a) : t.memRead a = s.memRead a := by
  obtain ⟨-, hA, -⟩ := h
  rw [hA a ha, if_neg fun ⟨h1, h2⟩ => hd (destReg_eq_some_iff.2 ⟨h1, h2.symm⟩)]

/-- The status byte where it is not the destination. -/
theorem Wrote.status_of_ne {b : Fin 8} (h : Wrote f d r fl s t) (hd : destReg f d ≠ some s.config.statusAddr) :
    t.status.getLsbD b.val = fl.bit s.config s.status b := by
  obtain ⟨-, -, hS⟩ := h
  rw [hS, if_neg (mt destReg_eq_some_iff.2 hd)]

/-- INTCON, and GIE in it, where its register reads as before. -/
theorem controlBytes_of_memRead (hc : t.config = s.config)
    (h : t.memRead s.config.intconAddr = s.memRead s.config.intconAddr) : t.intcon = s.intcon ∧ t.gie = s.gie := by
  have hi : t.intcon = s.intcon := by rw [State.intcon, hc, h]; rfl
  exact ⟨hi, by rw [State.gie, hi, hc]; rfl⟩

/-- RETFIE completes by a pop, a jump and the write of INTCON. -/
theorem exec_retfie_next (h : exec .retfie s = .next t) :
    ∃ e rest, s.stack = rest ++ [e] ∧ t = (State.setPc { s with stack := rest } e).setGie.setSignal .ok := by
  rcases s.pop_cases with ⟨hs, -⟩ | ⟨e, rest, hs, -⟩
  · cases (exec_retfie_of_stack_empty hs).symm.trans h
  · cases (execRetfie_of_stack_concat hs).symm.trans h
    exact ⟨e, rest, hs, rfl⟩

theorem exec_retfie_memRead_of_ne (hwf : s.rf.wf = true) (h : exec .retfie s = .next t) {a : RegAddr}
    (ha : a ≠ s.config.intconAddr) : t.memRead a = s.memRead a := by
  obtain ⟨e, rest, -, rfl⟩ := exec_retfie_next h
  exact State.memRead_setGie_ne (s := State.setPc { s with stack := rest } e) hwf ha

theorem exec_retfie_memRead_intcon (hwf : s.rf.wf = true) (h : exec .retfie s = .next t) :
    t.memRead s.config.intconAddr = s.memRead s.config.intconAddr ||| bitMask s.config.gieBit.val := by
  obtain ⟨e, rest, -, rfl⟩ := exec_retfie_next h
  exact (State.memRead_setGie (s := State.setPc { s with stack := rest } e) hwf _).trans (if_pos rfl)

/-- Settles O55: a data effect writes its destination and the flags of R114's table, RETFIE writes INTCON, and the other
instructions leave the register file (`exec_rf`). -/
theorem controlBytesChangeOnlyAsTabled : Obligations.ControlBytesChangeOnlyAsTabled := by
  intro i s t hi ht
  have hc := (exec_frame ht).config
  have hne : s.config.intconAddr ≠ s.config.statusAddr := hi.1.2.2.2.2.2
  cases hd : dataEffect s i with
  | some e =>
    obtain ⟨t', ht', hw, -⟩ := exec_of_dataEffect hi hd
    cases ht'.symm.trans ht
    rw [dataEffect_dest hd]
    refine ⟨fun hdest b hs => ?_, fun _ hdest => controlBytes_of_memRead hc (hw.memRead_of_ne hne hdest)⟩
    rw [hw.status_of_ne hdest, (dataEffect_flags hd).bit hs]
  | none =>
    by_cases hr : i = .retfie
    · subst hr
      have ha := exec_retfie_memRead_of_ne hi.2.1 ht hne.symm
      exact ⟨fun _ b _ => by rw [State.status, hc, ha]; rfl, fun h => absurd rfl h⟩
    · have hrf := exec_rf hd hr ht
      refine ⟨fun _ b _ => ?_, fun _ _ => controlBytes_of_memRead hc (State.memRead_eq_of_rf hrf _)⟩
      rw [State.status, hc, State.memRead_eq_of_rf hrf]; rfl

end Sys2Proof.Machine
end

section
/-! PROOFS. An instruction's result depends on no register outside its listed reads, and it writes none outside its listed
writes (R59, R60). -/

namespace Sys2Proof.Machine

variable {i : Instr} {s t t' : State} {m : Memory} {f : RegAddr} {d : Dest} {r : Byte} {fl : FlagWrites} {n : Nat}
  {e : DataEffect}

/-! ### The access lists. -/

theorem write_mem_flagRmw (c : Config) (a : RegAddr) : RfAccess.write a ∈ flagRmw c ↔ a = c.statusAddr := by
  simp [flagRmw]

theorem write_mem_destAccess (f a : RegAddr) (d : Dest) : RfAccess.write a ∈ destAccess f d ↔ destReg f d = some a := by
  cases d <;> simp [destAccess, destReg, eq_comm]

/-- The writes of a data effect: its destination, and the status byte where it writes flags, Z being always one of them. -/
theorem write_mem_rfAccesses_iff (h : dataEffect s i = some e) (c : Config) (a : RegAddr) :
    RfAccess.write a ∈ rfAccesses c i ↔ destReg e.f e.d = some a ∨ (flagsWritten i).z = true ∧ a = c.statusAddr := by
  cases i <;> cases h <;>
    simp [rfAccesses, write_mem_flagRmw, write_mem_destAccess, flagsWritten, destReg, eq_comm (a := a)]

/-- Flag writes read the status byte. -/
theorem read_status_mem_rfAccesses (c : Config) (h : (flagsWritten i).z = true) :
    RfAccess.read c.statusAddr ∈ rfAccesses c i := by
  cases i <;> simp_all [rfAccesses, flagRmw, flagsWritten]

/-- Where Z is not written no flag is. -/
theorem spares_of_z_eq_false (h : (flagsWritten i).z = false) (c : Config) (b : Fin 8) : (flagsWritten i).spares c b := by
  cases i <;> simp_all [flagsWritten, FlagSet.spares]

/-- An instruction without a data effect makes no access, RETFIE apart. -/
theorem rfAccesses_eq_nil (h : dataEffect s i = none) (hr : i ≠ .retfie) (c : Config) : rfAccesses c i = [] := by
  cases i with
  | retfie => exact absurd rfl hr
  | ret | sleep | invalidC0 | call | goto | retlw | invalidL | invalidClass1 | invalidClass2 | invalidClass3 => rfl
  | _ => cases h

/-! ### Two runs. -/

/-- Register files that agree at the listed reads give one data effect. -/
theorem dataEffect_withRf (h : ∀ a : RegAddr, RfAccess.read a ∈ rfAccesses s.config i → s.memRead a = m.read a.toNat) :
    dataEffect (s.withRf m) i = dataEffect s i := by
  have hread : ∀ a, RfAccess.read a ∈ rfAccesses s.config i → (s.withRf m).memRead a = s.memRead a :=
    fun a ha => (h a ha).symm
  have hw : (s.withRf m).w = s.w := rfl
  cases i with
  | subwf f d | decf f d | iorwf f d | andwf f d | xorwf f d | addwf f d | movf f d | comf f d | incf f d | decfsz f d
  | swapf f d | incfsz f d | bcf f b | bsf f b | btfsc f b | btfss f b =>
    have hf := hread f (by simp [rfAccesses])
    simp only [dataEffect, hf, hw]
  | rlf f d | rrf f d =>
    have hf := hread f (by simp [rfAccesses])
    have hC : (s.withRf m).flagC = s.flagC :=
      congrArg (·.getLsbD s.config.cBit.val) (hread s.config.statusAddr (by simp [rfAccesses]))
    simp only [dataEffect, hf, hC]
    rfl
  | _ => rfl

/-- Two runs of one data effect give one status byte if it is the destination or was the same before. -/
theorem Wrote.status_congr (h : Wrote f d r fl s t) (h' : Wrote f d r fl (s.withRf m) t')
    (hb : destReg f d = some s.config.statusAddr ∨ (s.withRf m).status = s.status) : t'.status = t.status := by
  obtain ⟨-, -, hS⟩ := h
  obtain ⟨-, -, hS'⟩ := h'
  refine byte_ext fun b => ?_
  rw [hS, hS']
  rcases hb with hb | hb
  · have hd := destReg_eq_some_iff.1 hb
    have hd' : d = .f ∧ f = (s.withRf m).config.statusAddr := hd
    rw [if_pos hd, if_pos hd']; rfl
  · rw [hb]; rfl

/-- Two runs of one data effect leave the destination alike. -/
theorem AluEffect.memRead_dest (h : AluEffect f d r fl n s t) (h' : AluEffect f d r fl n (s.withRf m) t') {a : RegAddr}
    (hd : destReg f d = some a) : t'.memRead a = t.memRead a := by
  obtain ⟨hw, -, -, -, -, hc, -⟩ := h
  obtain ⟨hw', -, -, -, -, hc', -⟩ := h'
  by_cases ha : a = s.config.statusAddr
  · subst ha
    have hs := hw.status_congr hw' (.inl hd)
    rwa [State.status, State.status, hc, hc'] at hs
  · obtain ⟨hdf, hfa⟩ := destReg_eq_some_iff.1 hd
    rw [hw.2.1 a ha, hw'.2.1 a ha, if_pos ⟨hdf, hfa.symm⟩, if_pos ⟨hdf, hfa.symm⟩]

/-- Two runs of one data effect from states that differ in their register files end alike but for the register files. -/
theorem AluEffect.with_rf_eq (h : AluEffect f d r fl n s t) (h' : AluEffect f d r fl n (s.withRf m) t') :
    { t' with rf := t.rf } = t := by
  obtain ⟨⟨hw, -⟩, hpc, hst, hrun, hsig, hc, hp⟩ := h
  obtain ⟨⟨hw', -⟩, hpc', hst', hrun', hsig', hc', hp'⟩ := h'
  cases t
  simp_all [State.withRf]

/-- The registers a data effect writes end alike in both runs. -/
theorem AluEffect.memRead_written (hd : dataEffect s i = some e) (h : AluEffect e.f e.d e.r e.fl e.n s t)
    (h' : AluEffect e.f e.d e.r e.fl e.n (s.withRf m) t')
    (hread : ∀ a : RegAddr, RfAccess.read a ∈ rfAccesses s.config i → s.memRead a = m.read a.toNat) {a : RegAddr}
    (ha : RfAccess.write a ∈ rfAccesses s.config i) : t'.memRead a = t.memRead a := by
  rcases (write_mem_rfAccesses_iff hd ..).1 ha with hdst | ⟨hz, rfl⟩
  · exact h.memRead_dest h' hdst
  · have hs := h.1.status_congr h'.1 (.inr (hread _ (read_status_mem_rfAccesses _ hz)).symm)
    obtain ⟨-, -, -, -, -, hc, -⟩ := h
    obtain ⟨-, -, -, -, -, hc', -⟩ := h'
    rwa [State.status, State.status, hc, hc'] at hs

/-- The registers it does not write are as before. -/
theorem AluEffect.memRead_unwritten (hd : dataEffect s i = some e) (h : AluEffect e.f e.d e.r e.fl e.n s t) {a : RegAddr}
    (ha : RfAccess.write a ∉ rfAccesses s.config i) : t.memRead a = s.memRead a := by
  obtain ⟨hdst, hst⟩ := not_or.1 (mt (write_mem_rfAccesses_iff hd ..).2 ha)
  by_cases hs : a = s.config.statusAddr
  · subst hs
    have hz : (flagsWritten i).z = false := by simpa using hst
    have hb : t.status = s.status := byte_ext fun b => by
      rw [h.1.status_of_ne hdst, (dataEffect_flags hd).bit (spares_of_z_eq_false hz _ b)]
    obtain ⟨-, -, -, -, -, hc, -⟩ := h
    rwa [State.status, hc] at hb
  · exact h.1.memRead_of_ne hs hdst

/-- RETFIE's access list names INTCON only. -/
theorem write_mem_rfAccesses_retfie (c : Config) (a : RegAddr) :
    RfAccess.write a ∈ rfAccesses c .retfie ↔ a = c.intconAddr := by
  simp [rfAccesses]

theorem exec_retfie_withRf (ht : exec .retfie s = .next t) (m : Memory) :
    ∃ t', exec .retfie (s.withRf m) = .next t' ∧ { t' with rf := t.rf } = t := by
  obtain ⟨e, rest, hs, rfl⟩ := exec_retfie_next ht
  exact ⟨_, execRetfie_of_stack_concat (s := s.withRf m) hs, rfl⟩

/-- Settles O56: with the reads alike the data effect is the same (`dataEffect_withRf`), and so are the registers it writes
(`AluEffect.memRead_withRf`); RETFIE reads and writes INTCON only, the other instructions no register. -/
theorem resultsDependOnlyOnRegistersRead : Obligations.ResultsDependOnlyOnRegistersRead := by
  intro i s t m hi hm ht hread
  have hi' : (s.withRf m).Inv := ⟨hi.1, hm, hi.2.2⟩
  cases hd : dataEffect s i with
  | some e =>
    have hd' := (dataEffect_withRf hread).trans hd
    obtain ⟨t₀, ht₀, he⟩ := exec_of_dataEffect hi hd
    cases ht₀.symm.trans ht
    obtain ⟨t', ht', he'⟩ := exec_of_dataEffect hi' hd'
    refine ⟨t', ht', he.with_rf_eq he', fun a => ?_⟩
    split
    · next ha => exact he.memRead_written hd he' hread ha
    · next ha => exact he'.memRead_unwritten hd' ha
  | none =>
    by_cases hr : i = .retfie
    · subst hr
      obtain ⟨t', ht', heq⟩ := exec_retfie_withRf ht m
      refine ⟨t', ht', heq, fun a => ?_⟩
      split
      · next ha =>
        rw [(write_mem_rfAccesses_retfie ..).1 ha, exec_retfie_memRead_intcon hi.2.1 ht, hread _ (List.mem_cons_self ..)]
        exact exec_retfie_memRead_intcon hi'.2.1 ht'
      · next ha => exact exec_retfie_memRead_of_ne hi'.2.1 ht' (mt (write_mem_rfAccesses_retfie ..).2 ha)
    · refine ⟨t.withRf m, ?_, rfl, fun a => ?_⟩
      · exact (exec_withRf hd hr m).trans (congrArg (overwriteRf m) ht)
      · rw [rfAccesses_eq_nil hd hr, if_neg List.not_mem_nil]; rfl

end Sys2Proof.Machine
end
